-- ==== Sys2Proof/Word.lean ====
section
/-! DEFINITION. The word types and the value types of CORE (00_scope.md R10 to R12). -/

namespace Sys2Proof

/-- A bit: `false` is 0, `true` is 1 (00_scope.md R10). -/
abbrev Bit := Bool

/-- A command word (30_encoding.md R71). -/
abbrev Word16 := BitVec 16

/-- A response word (30_encoding.md R75). -/
abbrev Word32 := BitVec 32

/-- A trellis state number s = 2*m1 + m0: bit 1 is m1 = b(n-1), bit 0 is m0 = b(n-2) (10_state.md R21). -/
abbrev StateNo := BitVec 2

/-- An edge number e = 2*d + p (10_state.md R32). -/
abbrev EdgeNo := BitVec 3

/-- The registers T and K (10_state.md R25, R28). -/
abbrev Count := BitVec 13

/-- The symbol set {+1, -1} (00_scope.md R12). -/
inductive Sym where
  | plus
  | minus
deriving DecidableEq, Repr, Inhabited

/-- A metric: "unreachable" or an integer (00_scope.md R12, 10_state.md R38; log 9). -/
inductive Metric where
  | unr
  | val (v : Int)
deriving DecidableEq, Repr, Inhabited

/-- Three consecutive elements of a sequence, `x0` the first in time (00_scope.md R11). -/
structure Triple (α : Type) where
  x0 : α
  x1 : α
  x2 : α
deriving DecidableEq, Repr, Inhabited

/-- One value per trellis state: a row of D or of P (10_state.md R37, R39). -/
structure Row (α : Type) where
  at0 : α
  at1 : α
  at2 : α
  at3 : α
deriving DecidableEq, Repr, Inhabited

def Triple.map {α β : Type} (f : α → β) (x : Triple α) : Triple β := ⟨f x.x0, f x.x1, f x.x2⟩

def Triple.toList {α : Type} (x : Triple α) : List α := [x.x0, x.x1, x.x2]

/-- The cell of a row that belongs to state `s`. -/
def Row.get {α : Type} (r : Row α) (s : StateNo) : α :=
  match s.toNat with
  | 0 => r.at0
  | 1 => r.at1
  | 2 => r.at2
  | _ => r.at3

/-- The row with `f s` in the cell of state `s`. -/
def Row.ofFn {α : Type} (f : StateNo → α) : Row α := ⟨f 0, f 1, f 2, f 3⟩

def Row.map {α β : Type} (f : α → β) (r : Row α) : Row β := ⟨f r.at0, f r.at1, f r.at2, f r.at3⟩

end Sys2Proof
end

