-- ==== Sys2Proof/Config.lean ====
section
/-! DEFINITION. What the spec leaves to the implementation (00_scope.md R8) and the free values it leaves
unspecified (10_state.md R41, R42). -/

namespace Sys2Proof

/-- The configuration of one CORE. `nmaxLessOne` is NMAX - 1, so that its type is the constraint
1 <= NMAX <= 4096 of 00_scope.md R8. NMAX is OPEN there: every statement holds for every value of it (log 1). -/
structure Config where
  nmaxLessOne : Fin 4096
deriving DecidableEq, Repr

/-- NMAX, the capacity of the tables in trellis steps (00_scope.md R8). -/
def Config.nmax (c : Config) : Nat := c.nmaxLessOne.val + 1

/-- The spec's default for tests, NMAX = 1024 (00_scope.md R8). DESIGN CHOICE: reset has it (log 1). -/
def Config.forTests : Config := ⟨1023⟩

/-- Free values: what a cell of D that no command has written since the last reset holds
(10_state.md R41, "unspecified"). Arguments: the number of resets so far and the cell's address.
They have no body: nothing can be proved of them (log 5). -/
opaque Config.freeMetric : Nat → Nat → Metric

/-- The same for a cell of P. -/
opaque Config.freeCode : Nat → Nat → Bit

/-- The same for a cell of OUT. -/
opaque Config.freeOut : Nat → Nat → Bit

/-- What K holds after a `TB.STEP` at K = 0, where the rule gives no value (43_traceback.md R127; log 6). Argument: the
number of resets so far. No reachable state asks for it. -/
opaque Config.freeCount : Nat → BitVec 13

end Sys2Proof
end

