-- ==== Sys2Proof/Machine/Trellis.lean ====
section
/-! DEFINITION. The trellis: its edges, the constant tables REF, LBL and ORG (10_state.md R32 to R36) and the
configuration check TablesOK (60_exceptions.md R163). -/

namespace Sys2Proof.Machine

/-- What TablesOK is a check of: the state count and the three tables (60_exceptions.md R163). That each
entry of `ref` is a triple of symbols and each entry of `lbl` a bit is said by their types. -/
structure Tables where
  nstates : Nat
  ref     : List (Triple Sym)
  lbl     : List Bit
  org     : List Nat
deriving DecidableEq, Repr

/-- TablesOK (60_exceptions.md R163). -/
def Tables.ok (tb : Tables) : Bool :=
  tb.ref.length == 2 * tb.nstates && tb.lbl.length == 2 * tb.nstates && tb.org.length == 2 * tb.nstates
    && tb.org.all (· < tb.nstates) && tb.nstates == 4

/-- The constants of this hardware: the state count (00_scope.md R6), REF (10_state.md R33), LBL (R34) and
ORG (R35), each listed by edge number. -/
def trellisTables : Tables where
  nstates := 4
  ref :=
    [⟨.plus, .plus, .plus⟩, ⟨.minus, .minus, .plus⟩, ⟨.minus, .plus, .plus⟩, ⟨.plus, .minus, .plus⟩,
     ⟨.minus, .minus, .minus⟩, ⟨.plus, .plus, .minus⟩, ⟨.plus, .minus, .minus⟩, ⟨.minus, .plus, .minus⟩]
  lbl := [false, false, false, false, true, true, true, true]
  org := [0, 1, 2, 3, 0, 1, 2, 3]

/-- REF[e]. An edge number has 3 bits and REF 8 entries, so the default is never used (20_memory.md R57). -/
def refOut (e : EdgeNo) : Triple Sym := trellisTables.ref.getD e.toNat ⟨.plus, .plus, .plus⟩

/-- LBL[e], the input bit of edge `e`. -/
def lbl (e : EdgeNo) : Bit := trellisTables.lbl.getD e.toNat false

/-- ORG[e], the state edge `e` leaves. -/
def org (e : EdgeNo) : StateNo := BitVec.ofNat 2 (trellisTables.org.getD e.toNat 0)

/-- The edge into state `d` with predecessor code `p`: e = 2*d + p (10_state.md R32). -/
def edgeNo (d : StateNo) (p : Bit) : EdgeNo := (d ++ BitVec.ofBool p : BitVec (2 + 1))

/-- The destination of the edge that leaves state `o` on input bit `b`: d = 2*b + o[1] (10_state.md R36). -/
def trellisNext (o : StateNo) (b : Bit) : StateNo :=
  (BitVec.ofBool b ++ BitVec.ofBool (o.getLsbD 1) : BitVec (1 + 1))

end Sys2Proof.Machine
end

