-- ==== Sys2Proof/Machine/State.lean ====
section
/-! DEFINITION. The state of CORE (10_state.md R20 to R41), the state after reset, and the ways a step can stop. -/

namespace Sys2Proof.Machine

/-- The decoder phase DP (10_state.md R26); the codes are in `Phase.code`. -/
inductive Phase where
  /-- no run started since reset -/
  | idle
  /-- forward recursion in progress -/
  | fwd
  /-- traceback in progress -/
  | tb
  /-- decoded output complete -/
  | done
deriving DecidableEq, Repr

/-- The fault causes (60_exceptions.md R160). Raising one is a NEXT state (R168), never a stop of the
machine; the codes are in `Cause.code`. -/
inductive Cause where
  | lengthZero
  | padNonZero
  | tableInconsistent
  | sequence
  | capacity
  | illegalCommand
  | indexRange
deriving DecidableEq, Repr

/-- The tables D, P and OUT (10_state.md R37 to R40), each a list of (linear cell address, value) with
strictly rising addresses. The address of cell (t, s) is 4*t + s, of OUT[i] it is i (20_memory.md R52).
A cell that is not listed has no value: no command has written it since the last reset (R42). -/
structure Memory where
  d   : List (Nat × Metric)
  p   : List (Nat × Bit)
  out : List (Nat × Bit)
deriving DecidableEq, Repr

/-- Every cell unspecified (10_state.md R41). -/
def Memory.unspecified : Memory := ⟨[], [], []⟩

/-- The state of CORE. The registers are those of 10_state.md R20; the last four fields are the model's. -/
structure State where
  /-- M, the encoder memory (R22) -/
  m      : StateNo
  /-- EP, the encoder phase (R24) -/
  ep     : BitVec 2
  /-- ENE, encoder not empty (R23) -/
  ene    : Bool
  /-- T, the trellis step counter (R25) -/
  t      : Count
  /-- DP, the decoder phase (R26) -/
  dp     : Phase
  /-- CUR, the traceback current state (R27) -/
  cur    : StateNo
  /-- K, the traceback step counter (R28) -/
  k      : Count
  /-- FLT, the fault flag (R29) -/
  flt    : Bool
  /-- CAUSE, the fault cause (R30) -/
  cause  : BitVec 4
  /-- D, P and OUT (R37 to R40) -/
  mem    : Memory
  /-- the command words presented at the command port and not yet taken, oldest first (30_encoding.md R70; log 2) -/
  cmdIn  : List Word16
  /-- the response words given at the response port, oldest first (30_encoding.md R70; log 4) -/
  rspOut : List Word32
  /-- how many `CORE.RST` have completed; it selects the free values of unspecified cells (log 5) -/
  resets : Nat
  /-- the configuration, which no step changes (00_scope.md R8; log 1) -/
  cfg    : Config
deriving DecidableEq, Repr

/-- Why the machine can stop: for no reason. The step is total in every state (00_scope.md R16,
93_implementation_defined.md I14), so this type has no constructor; the causes of 60_exceptions.md R160 are
next states. -/
inductive Fault where
deriving DecidableEq, Repr

/-- Why an instruction has no meaning. -/
inductive Refusal where
  /-- The instruction's arm has no meaning yet. Raised by `exec` alone; no arm raises it now. Safe. -/
  | notModelled (mnemonic : String)
deriving DecidableEq, Repr

abbrev Result := Host.Outcome State Fault Refusal

/-- The machine right after power-on reset (10_state.md R41, 70_reset_and_hazards.md R180): FLT and CAUSE as the
configuration check TablesOK says, every table cell unspecified, no command presented, no response given. -/
def State.reset : State where
  m := 0
  ep := 0
  ene := false
  t := 0
  dp := .idle
  cur := 0
  k := 0
  flt := !trellisTables.ok
  cause := if trellisTables.ok then 0 else 3
  mem := Memory.unspecified
  cmdIn := []
  rspOut := []
  resets := 0
  cfg := Config.forTests

end Sys2Proof.Machine
end

