-- ==== Sys2Proof/Machine/Ops.lean ====
section
/-! DEFINITION. The shared operations: table cells, responses, taking a fault and the rejection while faulted,
reset, and taking a command word from the port. -/

namespace Sys2Proof.Machine

/-! ## Tables -/

/-- The linear address of cell (t, q) of D or P (20_memory.md R52). -/
def cellAddr (t : Nat) (q : StateNo) : Nat := 4 * t + q.toNat

/-- The value listed for an address. -/
def readCell {α : Type} (cells : List (Nat × α)) (a : Nat) : Option α :=
  match cells with
  | [] => none
  | c :: rest => if c.1 = a then some c.2 else readCell rest a

/-- Lists `v` for address `a`, keeping the addresses strictly rising. -/
def writeCell {α : Type} (cells : List (Nat × α)) (a : Nat) (v : α) : List (Nat × α) :=
  match cells with
  | [] => [(a, v)]
  | c :: rest =>
    if a < c.1 then (a, v) :: c :: rest
    else if c.1 = a then (a, v) :: rest
    else c :: writeCell rest a v

/-- The canonical form of a table: addresses strictly rising, all from `lo` up to but not including `hi`.
"No value" is never listed, so equal tables are equal lists. -/
abbrev canonical {α : Type} (lo hi : Nat) (cells : List (Nat × α)) : Prop :=
  (cells.map Prod.fst).Pairwise (· < ·) ∧ ∀ c ∈ cells, lo ≤ c.1 ∧ c.1 < hi

/-- The three tables are in canonical form and hold only cells that exist (20_memory.md R50). -/
abbrev Memory.wf (nmax : Nat) (mem : Memory) : Prop :=
  canonical 0 (4 * (nmax + 1)) mem.d ∧ canonical 4 (4 * (nmax + 1)) mem.p ∧ canonical 0 nmax mem.out

/-- D[t,q]; a cell no command has written since the last reset reads as a free value (10_state.md R42; log 5), and
so does a cell the table does not have (log 6). -/
def State.dCell (s : State) (t : Nat) (q : StateNo) : Metric :=
  (readCell s.mem.d (cellAddr t q)).getD (Config.freeMetric s.resets (cellAddr t q))

/-- P[t,q], likewise. -/
def State.pCell (s : State) (t : Nat) (q : StateNo) : Bit :=
  (readCell s.mem.p (cellAddr t q)).getD (Config.freeCode s.resets (cellAddr t q))

/-- OUT[i], likewise. -/
def State.outCell (s : State) (i : Nat) : Bit :=
  (readCell s.mem.out i).getD (Config.freeOut s.resets i)

/-- Row t of D. -/
def State.dRow (s : State) (t : Nat) : Row Metric := Row.ofFn (s.dCell t)

/-- Writes the four cells of row t of a table, all together (20_memory.md R58). -/
def writeRow {α : Type} (cells : List (Nat × α)) (t : Nat) (r : Row α) : List (Nat × α) :=
  writeCell (writeCell (writeCell (writeCell cells (cellAddr t 0) r.at0)
    (cellAddr t 1) r.at1) (cellAddr t 2) r.at2) (cellAddr t 3) r.at3

def State.writeDRow (s : State) (t : Nat) (r : Row Metric) : State :=
  { s with mem := { s.mem with d := writeRow s.mem.d t r } }

def State.writePRow (s : State) (t : Nat) (r : Row Bit) : State :=
  { s with mem := { s.mem with p := writeRow s.mem.p t r } }

/-- OUT[k-1] <- b, the write of step k of the walk (20_memory.md R56). There is no such cell for k = 0 or k > NMAX
(10_state.md R40): nothing is written then (log 6). -/
def State.writeOut (s : State) (k : Nat) (b : Bit) : State :=
  { s with mem := { s.mem with out :=
      if 1 ≤ k ∧ k ≤ s.cfg.nmax then writeCell s.mem.out (k - 1) b else s.mem.out } }

/-! ## Responses -/

/-- The response word: err, zeros, U, data (30_encoding.md R75). -/
def packResponse (err : BitVec 4) (u : Bit) (data : BitVec 16) : Word32 :=
  (err ++ (0 : BitVec 11) ++ BitVec.ofBool u ++ data : BitVec (4 + 11 + 1 + 16))

/-- Gives one response word at the response port. -/
def State.emit (s : State) (r : Word32) : State := { s with rspOut := s.rspOut ++ [r] }

/-- The command completes: err = 0, U = 0 (00_scope.md R13). -/
def respond (data : BitVec 16) (s : State) : Result := .next (s.emit (packResponse 0 false data))

/-- The command completes with the "unreachable" flag: err = 0, U = 1, data = 0 (42_forward_recursion.md R118). -/
def respondUnreachable (s : State) : Result := .next (s.emit (packResponse 0 true 0))

/-! ## Faults -/

/-- The code of a cause, in CAUSE and in err (60_exceptions.md R160). -/
def Cause.code : Cause → BitVec 4
  | .lengthZero => 1
  | .padNonZero => 2
  | .tableInconsistent => 3
  | .sequence => 4
  | .capacity => 5
  | .illegalCommand => 6
  | .indexRange => 7

/-- FLT <- 1, CAUSE <- c. -/
def State.latch (s : State) (c : Cause) : State := { s with flt := true, cause := c.code }

/-- Fault entry (60_exceptions.md R168): the latch is set, the response carries the cause, nothing else
changes. Control goes nowhere. -/
def raiseFault (c : Cause) (s : State) : Result := .next ((s.latch c).emit (packResponse c.code false 0))

/-- The rejection of a command while FLT = 1 (60_exceptions.md R169): err = 15, no state changes. -/
def reject (s : State) : Result := .next (s.emit (packResponse 15 false 0))

/-- The first check of every command but `CORE.RST` and `CORE.STAT` (60_exceptions.md R170 (1)). -/
def whenRunning (s : State) (k : Result) : Result := if s.flt then reject s else k

/-- The remaining checks of a command (60_exceptions.md R170 (3), (4)): raises `c` unless `legal`. -/
def require (legal : Bool) (c : Cause) (s : State) (k : Result) : Result :=
  if legal then k else raiseFault c s

/-- The word at the port is illegal (60_exceptions.md R166, R170 (1), (2)). -/
def illegalWord (s : State) : Result := whenRunning s (raiseFault .illegalCommand s)

/-! ## Reset, the only return from a fault (60_exceptions.md R171) -/

/-- The reset of 10_state.md R41 with the tables `tb` as configuration: every register at its reset value, FLT
and CAUSE as TablesOK says, every table cell unspecified again (70_reset_and_hazards.md R180). The ports
and the configuration are not registers of CORE. -/
def State.resetRegs (s : State) (tb : Tables) : State :=
  { s with
    m := 0
    ep := 0
    ene := false
    t := 0
    dp := .idle
    cur := 0
    k := 0
    flt := !tb.ok
    cause := if tb.ok then 0 else Cause.code .tableInconsistent
    mem := Memory.unspecified
    resets := s.resets + 1 }

/-- Reset by command: it completes if TablesOK holds and responds with err = 3 if it does not
(44_core_control.md R135; log 10). -/
def resetCore (tb : Tables) (s : State) : Result :=
  if tb.ok then respond 0 (s.resetRegs tb)
  else .next ((s.resetRegs tb).emit (packResponse (Cause.code .tableInconsistent) false 0))

/-! ## The command port -/

/-- Takes the oldest command word presented, if there is one (30_encoding.md R70; log 2). -/
def takeCommand (s : State) : Option (Word16 × State) :=
  match s.cmdIn with
  | [] => none
  | w :: rest => some (w, { s with cmdIn := rest })

/-- No command is presented: nothing changes (00_scope.md R14, 70_reset_and_hazards.md R180; log 3). -/
def waitForCommand (s : State) : Result := .next s

/-- The host presents `w` before every word it has already presented. -/
def presentFirst (s : State) (w : Word16) : State := { s with cmdIn := w :: s.cmdIn }

/-- The host presents `ws` after every word it has already presented. -/
def presentLast (s : State) (ws : List Word16) : State := { s with cmdIn := s.cmdIn ++ ws }

end Sys2Proof.Machine
end

