-- ==== Sys2Proof/Machine/Flags.lean ====
section
/-! DEFINITION. The flags ENE and FLT (10_state.md R45; FLT is set by `State.latch` and cleared by
`State.resetRegs`) and the status view (10_state.md R31). -/

namespace Sys2Proof.Machine

/-- ENE <- 1 (40_encoder.md R93). -/
def State.setEne (s : State) : State := { s with ene := true }

/-- ENE <- 0 (40_encoder.md R94). -/
def State.clearEne (s : State) : State := { s with ene := false }

/-- The codes of DP (10_state.md R26). -/
def Phase.code : Phase → BitVec 2
  | .idle => 0
  | .fwd => 1
  | .tb => 2
  | .done => 3

/-- STATUS: EP, ENE, M, DP, CUR, FLT, CAUSE from bit 0 up, STATUS[15:14] = 0 (10_state.md R31). -/
def State.status (s : State) : BitVec 16 :=
  ((0 : BitVec 2) ++ s.cause ++ BitVec.ofBool s.flt ++ s.cur ++ s.dp.code ++ s.m ++ BitVec.ofBool s.ene ++ s.ep :
    BitVec (2 + 4 + 1 + 2 + 2 + 2 + 1 + 2))

end Sys2Proof.Machine
end

