-- ==== Sys2Proof/Syntax.lean ====
section
/-! DEFINITION. The commands of CORE: the mnemonics and formats of 30_encoding.md R72 and R76, the typed
command `Instr`, and the unchecked command of the assembler syntax R81. -/

namespace Sys2Proof

/-- The twelve commands of 30_encoding.md R76, without operands. -/
inductive Mnemonic where
  | coreRst | coreStat
  | encPad | encBit | encEnd
  | mapTri
  | fmrInit | fmrStep | fmrRdm
  | tbStart | tbStep | outRd
deriving DecidableEq, Repr

/-- The five formats of 30_encoding.md R72. -/
inductive Format where
  | z | b1 | b3 | s2 | i12
deriving DecidableEq, Repr

/-- A command with its operands. Each operand's type is as wide as its field in the command word
(30_encoding.md R72, R73), so an operand out of range cannot be written. -/
inductive Instr where
  /-- `CORE.RST` (44_core_control.md R135) -/
  | coreRst
  /-- `CORE.STAT` (44_core_control.md R136) -/
  | coreStat
  /-- `ENC.PAD b` (40_encoder.md R91) -/
  | encPad (b : Bit)
  /-- `ENC.BIT b` (40_encoder.md R93) -/
  | encBit (b : Bit)
  /-- `ENC.END` (40_encoder.md R94) -/
  | encEnd
  /-- `MAP.TRI x0x1x2` (41_channel_mapper.md R101) -/
  | mapTri (x : Triple Bit)
  /-- `FMR.INIT` (42_forward_recursion.md R107) -/
  | fmrInit
  /-- `FMR.STEP y0y1y2` (42_forward_recursion.md R112) -/
  | fmrStep (y : Triple Sym)
  /-- `FMR.RDM s` (42_forward_recursion.md R118) -/
  | fmrRdm (q : StateNo)
  /-- `TB.START` (43_traceback.md R126) -/
  | tbStart
  /-- `TB.STEP` (43_traceback.md R127) -/
  | tbStep
  /-- `OUT.RD i` (43_traceback.md R130) -/
  | outRd (i : BitVec 12)
deriving DecidableEq, Repr

/-- A command as a program text gives it, before any check: its mnemonic and its operand as digits, each
digit a number (30_encoding.md R81). -/
structure RawCmd where
  mnemonic : Mnemonic
  digits   : List Nat
deriving DecidableEq, Repr

def Instr.mnemonic : Instr → Mnemonic
  | .coreRst => .coreRst
  | .coreStat => .coreStat
  | .encPad _ => .encPad
  | .encBit _ => .encBit
  | .encEnd => .encEnd
  | .mapTri _ => .mapTri
  | .fmrInit => .fmrInit
  | .fmrStep _ => .fmrStep
  | .fmrRdm _ => .fmrRdm
  | .tbStart => .tbStart
  | .tbStep => .tbStep
  | .outRd _ => .outRd

/-- The format column of 30_encoding.md R76. -/
def Mnemonic.format : Mnemonic → Format
  | .coreRst => .z
  | .coreStat => .z
  | .encPad => .b1
  | .encBit => .b1
  | .encEnd => .z
  | .mapTri => .b3
  | .fmrInit => .z
  | .fmrStep => .b3
  | .fmrRdm => .s2
  | .tbStart => .z
  | .tbStep => .z
  | .outRd => .i12

/-- The mnemonic column of 30_encoding.md R76. -/
def Mnemonic.name : Mnemonic → String
  | .coreRst => "CORE.RST"
  | .coreStat => "CORE.STAT"
  | .encPad => "ENC.PAD"
  | .encBit => "ENC.BIT"
  | .encEnd => "ENC.END"
  | .mapTri => "MAP.TRI"
  | .fmrInit => "FMR.INIT"
  | .fmrStep => "FMR.STEP"
  | .fmrRdm => "FMR.RDM"
  | .tbStart => "TB.START"
  | .tbStep => "TB.STEP"
  | .outRd => "OUT.RD"

def Mnemonic.all : List Mnemonic :=
  [.coreRst, .coreStat, .encPad, .encBit, .encEnd, .mapTri, .fmrInit, .fmrStep, .fmrRdm, .tbStart, .tbStep, .outRd]

end Sys2Proof
end

