-- ==== Sys2Proof/WellFormed.lean ====
section
/-! DEFINITION. Which commands are well formed. The operands of `Instr` are typed as wide as their fields, so
every `Instr` is well formed; the checks are on the unchecked command of a program text
(30_encoding.md R72, R73, R81). -/

namespace Sys2Proof

/-- The number that decimal digits, first digit first, stand for. -/
def decimalValue (ds : List Nat) : Nat := ds.foldl (fun a d => 10 * a + d) 0

/-- The decimal digits of `n`, first digit first; `fuel` is one less than the most digits asked for. -/
def decimalDigits : (fuel : Nat) → (n : Nat) → List Nat
  | 0, n => [n % 10]
  | fuel + 1, n => if n < 10 then [n] else decimalDigits fuel (n / 10) ++ [n % 10]

/-- What a format asks of an operand (30_encoding.md R72, R81): none; one bit; three binary digits;
a state 0..3; an index 0..4095 in decimal. -/
def Format.accepts (f : Format) (digits : List Nat) : Bool :=
  match f with
  | .z => digits.isEmpty
  | .b1 => digits.length == 1 && digits.all (· ≤ 1)
  | .b3 => digits.length == 3 && digits.all (· ≤ 1)
  | .s2 => digits.length == 1 && digits.all (· ≤ 3)
  | .i12 => !digits.isEmpty && digits.all (· ≤ 9) && decide (decimalValue digits < 4096)

/-- A program text's command is well formed when its format accepts its operand. -/
def RawCmd.wellFormed (c : RawCmd) : Bool := c.mnemonic.format.accepts c.digits

def Bit.digit (b : Bit) : Nat := if b then 1 else 0

/-- The command of a program text that stands for `i` (30_encoding.md R81). A symbol is written as its
wire code, 0 for +1 and 1 for -1. -/
def Instr.raw : Instr → RawCmd
  | .coreRst => ⟨.coreRst, []⟩
  | .coreStat => ⟨.coreStat, []⟩
  | .encPad b => ⟨.encPad, [Bit.digit b]⟩
  | .encBit b => ⟨.encBit, [Bit.digit b]⟩
  | .encEnd => ⟨.encEnd, []⟩
  | .mapTri x => ⟨.mapTri, (x.map Bit.digit).toList⟩
  | .fmrInit => ⟨.fmrInit, []⟩
  | .fmrStep y => ⟨.fmrStep, (y.map fun v => if v = .minus then 1 else 0).toList⟩
  | .fmrRdm q => ⟨.fmrRdm, [q.toNat]⟩
  | .tbStart => ⟨.tbStart, []⟩
  | .tbStep => ⟨.tbStep, []⟩
  | .outRd i => ⟨.outRd, decimalDigits 3 i.toNat⟩

/-- A typed command is well formed when the program text that stands for it is. Every one is
(`Laws/PerInstr.lean`). -/
def Instr.wellFormed (i : Instr) : Bool := i.raw.wellFormed

end Sys2Proof
end

