-- ==== Sys2Proof/Decode.lean ====
section
/-! DEFINITION. Decoding of command words (30_encoding.md R71 to R78) and the encoder written from the same
tables. -/

namespace Sys2Proof

/-- Why a word is illegal (30_encoding.md R74): steps (1) and (2) of the decoding order. -/
inductive DecodeError where
  | reservedOp
  | reservedBits
deriving DecidableEq, Repr

/-- One row of the opcode map (30_encoding.md R76). -/
structure OpRow where
  mnemonic : Mnemonic
  pattern  : Word16
  mask     : Word16
deriving DecidableEq, Repr

/-- The opcode map as 30_encoding.md R76 prints it ("match" is `pattern`). Decoding does not read it;
`Laws/Decode.lean` shows that decoding agrees with it. -/
def opcodeTable : List OpRow :=
  [⟨.coreRst, 0x1000, 0xFFFF⟩, ⟨.coreStat, 0x2000, 0xFFFF⟩,
   ⟨.encPad, 0x4000, 0xFFFE⟩, ⟨.encBit, 0x5000, 0xFFFE⟩, ⟨.encEnd, 0x6000, 0xFFFF⟩,
   ⟨.mapTri, 0x7000, 0xFFF8⟩,
   ⟨.fmrInit, 0x8000, 0xFFFF⟩, ⟨.fmrStep, 0x9000, 0xFFF8⟩, ⟨.fmrRdm, 0xA000, 0xFFFC⟩,
   ⟨.tbStart, 0xC000, 0xFFFF⟩, ⟨.tbStep, 0xD000, 0xFFFF⟩, ⟨.outRd, 0xE000, 0xF000⟩]

/-- W[15:12] (30_encoding.md R71). -/
def opField (w : Word16) : BitVec 4 := w.extractLsb' 12 4

/-- W[11:0] (30_encoding.md R71). -/
def argField (w : Word16) : BitVec 12 := w.extractLsb' 0 12

/-- The op column of 30_encoding.md R76; the codes 0x0, 0x3, 0xB, 0xF are reserved (R77). -/
def mnemonicOfOp (op : BitVec 4) : Option Mnemonic :=
  match op.toNat with
  | 0x1 => some .coreRst
  | 0x2 => some .coreStat
  | 0x4 => some .encPad
  | 0x5 => some .encBit
  | 0x6 => some .encEnd
  | 0x7 => some .mapTri
  | 0x8 => some .fmrInit
  | 0x9 => some .fmrStep
  | 0xA => some .fmrRdm
  | 0xC => some .tbStart
  | 0xD => some .tbStep
  | 0xE => some .outRd
  | _ => none

def Mnemonic.op : Mnemonic → BitVec 4
  | .coreRst => 0x1
  | .coreStat => 0x2
  | .encPad => 0x4
  | .encBit => 0x5
  | .encEnd => 0x6
  | .mapTri => 0x7
  | .fmrInit => 0x8
  | .fmrStep => 0x9
  | .fmrRdm => 0xA
  | .tbStart => 0xC
  | .tbStep => 0xD
  | .outRd => 0xE

/-- The reserved bits of the operand field (30_encoding.md R72). -/
def Format.reserved : Format → BitVec 12
  | .z => 0xFFF
  | .b1 => 0xFFE
  | .b3 => 0xFF8
  | .s2 => 0xFFC
  | .i12 => 0x000

/-- The wire code of a symbol: 0 for +1, 1 for -1 (20_memory.md R55). -/
def Sym.code : Sym → Bit
  | .plus => false
  | .minus => true

/-- The symbol of a wire code (20_memory.md R55, 30_encoding.md R73). -/
def Sym.ofCode : Bit → Sym
  | false => .plus
  | true => .minus

/-- The 3-bit field of a triple, first element in the highest bit (20_memory.md R54). -/
def packTriple (x : Triple Bit) : BitVec 3 :=
  (BitVec.ofBool x.x0 ++ BitVec.ofBool x.x1 ++ BitVec.ofBool x.x2 : BitVec (1 + 1 + 1))

def unpackTriple (f : BitVec 3) : Triple Bit := ⟨f.getLsbD 2, f.getLsbD 1, f.getLsbD 0⟩

/-- Operand assembly (30_encoding.md R73). -/
def assembleOperands (m : Mnemonic) (arg : BitVec 12) : Instr :=
  match m with
  | .coreRst => .coreRst
  | .coreStat => .coreStat
  | .encPad => .encPad (arg.getLsbD 0)
  | .encBit => .encBit (arg.getLsbD 0)
  | .encEnd => .encEnd
  | .mapTri => .mapTri (unpackTriple (arg.extractLsb' 0 3))
  | .fmrInit => .fmrInit
  | .fmrStep => .fmrStep ((unpackTriple (arg.extractLsb' 0 3)).map Sym.ofCode)
  | .fmrRdm => .fmrRdm (arg.extractLsb' 0 2)
  | .tbStart => .tbStart
  | .tbStep => .tbStep
  | .outRd => .outRd arg

/-- Decoding, in the order of 30_encoding.md R74: the op, the reserved bits, the operands. It depends on
no state and answers on all 65536 words. -/
def decode (w : Word16) : Except DecodeError Instr :=
  match mnemonicOfOp (opField w) with
  | none => .error .reservedOp
  | some m =>
    if argField w &&& m.format.reserved = 0 then .ok (assembleOperands m (argField w))
    else .error .reservedBits

/-- The operand field of a command (30_encoding.md R72); the reserved bits are 0. -/
def operandField : Instr → BitVec 12
  | .coreRst => 0
  | .coreStat => 0
  | .encPad b => (BitVec.ofBool b).setWidth 12
  | .encBit b => (BitVec.ofBool b).setWidth 12
  | .encEnd => 0
  | .mapTri x => (packTriple x).setWidth 12
  | .fmrInit => 0
  | .fmrStep y => (packTriple (y.map Sym.code)).setWidth 12
  | .fmrRdm q => q.setWidth 12
  | .tbStart => 0
  | .tbStep => 0
  | .outRd i => i

/-- The command word of a command (30_encoding.md R71, R76). -/
def encode (i : Instr) : Word16 := (i.mnemonic.op ++ operandField i : BitVec (4 + 12))

/-- Decoding of a word numbered as spec/opcode_table.json numbers it: `nbits` bits, bit 0 the least
significant, which is the numbering of 00_scope.md R10. A command is always one 16-bit word
(30_encoding.md R80), so a longer one has no decoding (log 12). -/
def decodeTableWord (nbits w : Nat) : Option Instr :=
  if nbits ≤ 16 then
    match decode (BitVec.ofNat 16 (w % 2 ^ nbits)) with
    | .ok i => some i
    | .error _ => none
  else none

end Sys2Proof
end

