-- ==== Sys2Proof/Machine/Operands.lean ====
section
/-! DEFINITION. Operand and result forms: symbols, and the data field of each response that carries a value
(30_encoding.md R73, R75). Decoding has already pulled the operands out of the word (`assembleOperands`). -/

namespace Sys2Proof.Machine

/-- A symbol as an integer (00_scope.md R12). -/
def symInt : Sym → Int
  | .plus => 1
  | .minus => -1

/-- sym : bit 0 -> +1, bit 1 -> -1 (41_channel_mapper.md R100). -/
def symOfBit : Bit → Sym
  | false => .plus
  | true => .minus

/-- The inverse of `symOfBit` (41_channel_mapper.md R100). -/
def bitOfSym : Sym → Bit
  | .plus => false
  | .minus => true

/-- data[2:0] = the triple, first element highest; data[15:3] = 0 (30_encoding.md R75). -/
def tripleData (x : Triple Bit) : BitVec 16 := (packTriple x).setWidth 16

/-- data[1:0] = a state number, the rest 0. -/
def stateData (q : StateNo) : BitVec 16 := q.setWidth 16

/-- data[12:0] = a count, the rest 0. -/
def countData (c : Count) : BitVec 16 := c.setWidth 16

/-- data[0] = a bit, the rest 0. -/
def bitData (b : Bit) : BitVec 16 := (BitVec.ofBool b).setWidth 16

/-- data[0] = the decoded bit, data[13:1] = K after the step, data[15:14] = 0. -/
def walkData (b : Bit) (k : Count) : BitVec 16 :=
  ((0 : BitVec 2) ++ k ++ BitVec.ofBool b : BitVec (2 + 13 + 1))

/-- The response of `FMR.RDM`: V as 16-bit two's complement with U = 0, or U = 1 and data 0
(42_forward_recursion.md R118). An integer out of range, which no run stores, is reduced (log 9). -/
def respondMetric (v : Metric) (s : State) : Result :=
  match v with
  | .unr => respondUnreachable s
  | .val n => respond (BitVec.ofInt 16 n) s

end Sys2Proof.Machine
end

