-- ==== Sys2Proof/Machine/Control.lean ====
section
/-! DEFINITION. `CORE.RST` and `CORE.STAT` (44_core_control.md). They run whether or not FLT = 1 (R137). -/

namespace Sys2Proof.Machine

/-- `CORE.RST` (44_core_control.md R135), with the constants of this hardware. -/
def execCoreRst (s : State) : Result := resetCore trellisTables s

/-- `CORE.STAT` (44_core_control.md R136). -/
def execCoreStat (s : State) : Result := respond s.status s

end Sys2Proof.Machine
end

