-- ==== Sys2Proof/Machine/Encoder.lean ====
section
/-! DEFINITION. The encoder ENC: `ENC.PAD`, `ENC.BIT`, `ENC.END` (40_encoder.md). -/

namespace Sys2Proof.Machine

/-- enc_out(b, m1, m0) (40_encoder.md R92). -/
def encOut (b m1 m0 : Bit) : Triple Bit := ⟨b ^^ m1 ^^ m0, b ^^ m0, b⟩

/-- m1 of a memory or state number (10_state.md R21). -/
def stateM1 (q : StateNo) : Bit := q.getLsbD 1

/-- m0 of a memory or state number (10_state.md R21). -/
def stateM0 (q : StateNo) : Bit := q.getLsbD 0

/-- M <- (b, M[1]) (40_encoder.md R91, R93). -/
def State.shiftIn (s : State) (b : Bit) : State :=
  { s with m := (BitVec.ofBool b ++ BitVec.ofBool (stateM1 s.m) : BitVec (1 + 1)) }

def State.setEp (s : State) (ep : BitVec 2) : State := { s with ep := ep }

/-- `ENC.PAD b` (40_encoder.md R91). EP = 3 is never held (10_state.md R24; log 8). -/
def execEncPad (b : Bit) (s : State) : Result :=
  whenRunning s <|
  require (s.ep ≠ 2) .sequence s <|
  require (!b) .padNonZero s <|
  respond 0 ((s.shiftIn b).setEp (s.ep + 1))

/-- `ENC.BIT b` (40_encoder.md R93); the outputs are those of the memory before the shift. -/
def execEncBit (b : Bit) (s : State) : Result :=
  whenRunning s <|
  require (s.ep = 2) .sequence s <|
  respond (tripleData (encOut b (stateM1 s.m) (stateM0 s.m))) (s.shiftIn b).setEne

/-- `ENC.END` (40_encoder.md R94). -/
def execEncEnd (s : State) : Result :=
  whenRunning s <|
  require s.ene .lengthZero s <|
  respond (stateData s.m) (s.setEp 0).clearEne

end Sys2Proof.Machine
end

