-- ==== Sys2Proof/Machine/Forward.lean ====
section
/-! DEFINITION. The forward-metric recursion engine FMR: `FMR.INIT`, `FMR.STEP`, `FMR.RDM`
(42_forward_recursion.md). -/

namespace Sys2Proof.Machine

/-- bm(y, e), the inner product of the received triple with REF[e] (42_forward_recursion.md R108). -/
def branchMetric (y : Triple Sym) (e : EdgeNo) : Int :=
  symInt y.x0 * symInt (refOut e).x0 + symInt y.x1 * symInt (refOut e).x1
    + symInt y.x2 * symInt (refOut e).x2

/-- madd (42_forward_recursion.md R106). -/
def madd : Metric → Int → Metric
  | .unr, _ => .unr
  | .val v, n => .val (v + n)

/-- mge, "first is at least second" (42_forward_recursion.md R110). -/
def mge : Metric → Metric → Bool
  | _, .unr => true
  | .unr, .val _ => false
  | .val v, .val w => decide (w ≤ v)

/-- The candidate of the edge into `d` with predecessor code `p`: its origin's old metric plus its branch
metric (42_forward_recursion.md R112). -/
def candidate (row : Row Metric) (y : Triple Sym) (d : StateNo) (p : Bit) : Metric :=
  madd (row.get (org (edgeNo d p))) (branchMetric y (edgeNo d p))

/-- The winning metric at destination `d` and the winner's code; the first edge wins on equality
(42_forward_recursion.md R112, R114). -/
def selectEdge (row : Row Metric) (y : Triple Sym) (d : StateNo) : Metric × Bit :=
  if mge (candidate row y d false) (candidate row y d true) then (candidate row y d false, false)
  else (candidate row y d true, true)

/-- One step of the recursion as a function of the old row (42_forward_recursion.md R112, R115). -/
def forwardRow (row : Row Metric) (y : Triple Sym) : Row (Metric × Bit) := Row.ofFn (selectEdge row y)

/-- Row 0 of D (42_forward_recursion.md R107). -/
def initRow : Row Metric := ⟨.val 0, .unr, .unr, .unr⟩

def State.setT (s : State) (t : Count) : State := { s with t := t }

def State.setDp (s : State) (dp : Phase) : State := { s with dp := dp }

/-- `FMR.INIT` (42_forward_recursion.md R107). -/
def execFmrInit (s : State) : Result :=
  whenRunning s <|
  respond 0 (((s.writeDRow 0 initRow).setT 0).setDp .fwd)

/-- `FMR.STEP y0y1y2` (42_forward_recursion.md R112); row T+1 exists when T < NMAX (R111, 20_memory.md R57; log 7). -/
def execFmrStep (y : Triple Sym) (s : State) : Result :=
  whenRunning s <|
  require (s.dp = .fwd) .sequence s <|
  require (s.t.toNat < s.cfg.nmax) .capacity s <|
  respond (countData (s.t + 1))
    (((s.writeDRow (s.t.toNat + 1) ((forwardRow (s.dRow s.t.toNat) y).map Prod.fst)).writePRow
      (s.t.toNat + 1) ((forwardRow (s.dRow s.t.toNat) y).map Prod.snd)).setT (s.t + 1))

/-- `FMR.RDM s` (42_forward_recursion.md R118): cell (T, s) of D. -/
def execFmrRdm (q : StateNo) (s : State) : Result :=
  whenRunning s <|
  require (s.dp ≠ .idle) .sequence s <|
  respondMetric (s.dCell s.t.toNat q) s

end Sys2Proof.Machine
end

