-- ==== Sys2Proof/Machine/Mapper.lean ====
section
/-! DEFINITION. The channel mapper MAP: `MAP.TRI` (41_channel_mapper.md). -/

namespace Sys2Proof.Machine

/-- `MAP.TRI x0x1x2` (41_channel_mapper.md R101): the wire codes of the symbols of the three bits. -/
def execMapTri (x : Triple Bit) (s : State) : Result :=
  whenRunning s <|
  respond (tripleData ((x.map symOfBit).map Sym.code)) s

end Sys2Proof.Machine
end

