-- ==== Sys2Proof/Machine/Traceback.lean ====
section
/-! DEFINITION. The traceback unit TBU: `TB.START`, `TB.STEP`, `OUT.RD` (43_traceback.md). -/

namespace Sys2Proof.Machine

def State.setCur (s : State) (q : StateNo) : State := { s with cur := q }

def State.setK (s : State) (k : Count) : State := { s with k := k }

/-- `TB.START` (43_traceback.md R126): the walk starts in state 0 whatever the metrics are (R132). -/
def execTbStart (s : State) : Result :=
  whenRunning s <|
  require (s.dp = .fwd) .sequence s <|
  require (s.t ≠ 0) .lengthZero s <|
  respond (countData s.t) (((s.setCur 0).setK s.t).setDp .tb)

/-- The winning edge into CUR at step K (43_traceback.md R127). -/
def State.walkEdge (s : State) : EdgeNo := edgeNo s.cur (s.pCell s.k.toNat s.cur)

/-- K - 1. The rule gives K >= 1 and says that K never wraps (43_traceback.md R127, 10_state.md R44): what becomes of
K = 0 is a free value (log 6). -/
def State.nextK (s : State) : Count := if s.k = 0 then Config.freeCount s.resets else s.k - 1

/-- `TB.STEP` (43_traceback.md R127); the step that takes K to 0 ends the walk (R128). -/
def execTbStep (s : State) : Result :=
  whenRunning s <|
  require (s.dp = .tb) .sequence s <|
  respond (walkData (lbl s.walkEdge) s.nextK)
    ((((s.writeOut s.k.toNat (lbl s.walkEdge)).setCur (org s.walkEdge)).setK s.nextK).setDp
      (if s.nextK = 0 then .done else .tb))

/-- `OUT.RD i` (43_traceback.md R130); `i` is zero-extended to the width of T (30_encoding.md R73). -/
def execOutRd (i : BitVec 12) (s : State) : Result :=
  whenRunning s <|
  require (s.dp = .done) .sequence s <|
  require (i.setWidth 13 < s.t) .indexRange s <|
  respond (bitData (s.outCell i.toNat)) s

end Sys2Proof.Machine
end

