-- ==== Sys2Proof/Machine/Dispatch.lean ====
section
/-! DEFINITION. One arm per command. -/

namespace Sys2Proof.Machine

def exec (i : Instr) (s : State) : Host.Outcome State Fault Refusal :=
  match i with
  | .coreRst => Sys2Proof.Machine.execCoreRst s
  | .coreStat => Sys2Proof.Machine.execCoreStat s
  | .encPad b => Sys2Proof.Machine.execEncPad b s
  | .encBit b => Sys2Proof.Machine.execEncBit b s
  | .encEnd => Sys2Proof.Machine.execEncEnd s
  | .mapTri x => Sys2Proof.Machine.execMapTri x s
  | .fmrInit => Sys2Proof.Machine.execFmrInit s
  | .fmrStep y => Sys2Proof.Machine.execFmrStep y s
  | .fmrRdm q => Sys2Proof.Machine.execFmrRdm q s
  | .tbStart => Sys2Proof.Machine.execTbStart s
  | .tbStep => Sys2Proof.Machine.execTbStep s
  | .outRd index => Sys2Proof.Machine.execOutRd index s

end Sys2Proof.Machine
end

