-- ==== Sys2Proof/Machine/Step.lean ====
section
/-! DEFINITION. One step: take the next command word, decode it, run it (30_encoding.md R70, R74; 00_scope.md R14). -/

namespace Sys2Proof.Machine

def step (s : State) : Host.Outcome State Fault Refusal :=
  match takeCommand s with
  | none => waitForCommand s
  | some (w, s') =>
    match decode w with
    | .ok i => exec i s'
    | .error _ => illegalWord s'

/-- The host presents the word `w` of `nbits` bits as the next command (log 2, log 12). -/
def State.withFetchWord (s : State) (nbits w : Nat) : State :=
  presentFirst s (BitVec.ofNat 16 (w % 2 ^ nbits))

end Sys2Proof.Machine
end

