-- ==== Sys2Proof/Machine/Assembler.lean ====
section
/-! DEFINITION. The assembler syntax (30_encoding.md R81): one command per line, the mnemonic in capitals, then
the operand if the format has one, separated by a space; a comment starts with a semicolon. -/

namespace Sys2Proof.Machine

/-- The typed command of a well-formed text command (30_encoding.md R73, R81). -/
def rawToInstr (c : RawCmd) : Option Instr :=
  if c.wellFormed then
    some <|
      let bit (j : Nat) : Bit := c.digits.getD j 0 == 1
      match c.mnemonic with
      | .coreRst => .coreRst
      | .coreStat => .coreStat
      | .encPad => .encPad (bit 0)
      | .encBit => .encBit (bit 0)
      | .encEnd => .encEnd
      | .mapTri => .mapTri ⟨bit 0, bit 1, bit 2⟩
      | .fmrInit => .fmrInit
      | .fmrStep => .fmrStep ⟨Sym.ofCode (bit 0), Sym.ofCode (bit 1), Sym.ofCode (bit 2)⟩
      | .fmrRdm => .fmrRdm (BitVec.ofNat 2 (decimalValue c.digits))
      | .tbStart => .tbStart
      | .tbStep => .tbStep
      | .outRd => .outRd (BitVec.ofNat 12 (decimalValue c.digits))
  else none

/-- The value of a decimal digit. -/
def digitOfChar (c : Char) : Option Nat :=
  if '0' ≤ c ∧ c ≤ '9' then some (c.toNat - '0'.toNat) else none

/-- All of the characters are decimal digits: their values. -/
def digitsOfChars : List Char → Option (List Nat)
  | [] => some []
  | c :: rest =>
    match digitOfChar c, digitsOfChars rest with
    | some d, some ds => some (d :: ds)
    | _, _ => none

/-- The mnemonic with this name. -/
def mnemonicOfName (name : List Char) : Option Mnemonic := Mnemonic.all.find? fun m => m.name.toList == name

/-- The part of a line before its comment, without the spaces at its end (log 11). -/
def lineBody (line : List Char) : List Char :=
  ((line.takeWhile (· != ';')).reverse.dropWhile (· == ' ')).reverse

/-- The operand text after the mnemonic: nothing, or one space and then digits (log 11). -/
def operandDigits : List Char → Option (List Nat)
  | [] => some []
  | _ :: [] => none
  | _ :: rest => digitsOfChars rest

/-- The unchecked command of a line. -/
def parseLine (line : List Char) : Option RawCmd :=
  match mnemonicOfName ((lineBody line).takeWhile (· != ' ')),
      operandDigits ((lineBody line).dropWhile (· != ' ')) with
  | some m, some ds => some ⟨m, ds⟩
  | _, _ => none

/-- The command a line of text stands for, if it stands for one (30_encoding.md R81). -/
def assembleLine (line : List Char) : Option Instr :=
  match parseLine line with
  | some c => rawToInstr c
  | none => none

/-- The line of text that stands for a command (30_encoding.md R81). -/
def printLine (i : Instr) : List Char :=
  i.mnemonic.name.toList ++
    (match i.raw.digits with
     | [] => []
     | d :: ds => ' ' :: (d :: ds).map fun n => Char.ofNat (n + '0'.toNat))

end Sys2Proof.Machine
end

