-- ==== Sys2Proof/Machine/Blocks.lean ====
section
/-! DEFINITION. The block functions encode, channel and decode and the pseudo-operations ENCODE, CHANNEL, DECODE
and ROUNDTRIP (45_block_operations.md). No command calls them: claims compare the commands with them
(log 13). -/

namespace Sys2Proof.Machine

/-! ## Sequences and triples -/

/-- The triples of a sequence (00_scope.md R11); none when its length is not a multiple of 3
(45_block_operations.md R144). -/
def triplesOf {α : Type} : List α → Option (List (Triple α))
  | [] => some []
  | [_] => none
  | [_, _] => none
  | a :: b :: c :: rest =>
    match triplesOf rest with
    | some ts => some (⟨a, b, c⟩ :: ts)
    | none => none

def flattenTriples {α : Type} (ts : List (Triple α)) : List α := ts.flatMap Triple.toList

/-! ## encode -/

/-- The triples for B[2], B[3], ... of a sequence B (45_block_operations.md R142): each message bit with the
two bits before it. -/
def encodeTriples : List Bit → List (Triple Bit)
  | b0 :: b1 :: b :: rest => encOut b b1 b0 :: encodeTriples (b1 :: b :: rest)
  | _ => []

/-- B is in the domain of encode: N >= 1 message bits after two zero pads (45_block_operations.md R142). -/
def encodeDomain (B : List Bit) : Bool :=
  match B with
  | false :: false :: _ :: _ => true
  | _ => false

/-- encode(B), no value outside its domain (45_block_operations.md R142). -/
def encodeBlock (B : List Bit) : Option (List Bit) :=
  if encodeDomain B then some (flattenTriples (encodeTriples B)) else none

/-- The encoder memory after all of `B` has been shifted into `q` (40_encoder.md R91, R93). -/
def memoryAfter (q : StateNo) (B : List Bit) : StateNo := B.foldl trellisNext q

/-! ## channel -/

/-- channel(S) (41_channel_mapper.md R102). -/
def channelBlock (S : List Bit) : List Sym := S.map symOfBit

/-! ## decode -/

/-- Rows 1, 2, ... of D and P after row `row` of D (42_forward_recursion.md R112). -/
def forwardRows (row : Row Metric) : List (Triple Sym) → List (Row (Metric × Bit))
  | [] => []
  | y :: ys => forwardRow row y :: forwardRows ((forwardRow row y).map Prod.fst) ys

/-- Row t of D for t the number of triples, from row 0 `row` (42_forward_recursion.md R112). -/
def metricsAfter (row : Row Metric) (ys : List (Triple Sym)) : Row Metric :=
  ys.foldl (fun r y => (forwardRow r y).map Prod.fst) row

/-- P[t, q] of the rows of a run; rows are numbered from 1 (10_state.md R39). -/
def codeAt (rows : List (Row (Metric × Bit))) (t : Nat) (q : StateNo) : Bit :=
  match rows[t - 1]? with
  | some r => (r.get q).2
  | none => false

/-- The walk of 43_traceback.md R129 from state `cur` at step `k`: the decoded bits of steps 1 to k, in
message order. -/
def walkBack (codes : Nat → StateNo → Bit) : (k : Nat) → (cur : StateNo) → List Bit
  | 0, _ => []
  | k + 1, cur =>
    walkBack codes k (org (edgeNo cur (codes (k + 1) cur))) ++ [lbl (edgeNo cur (codes (k + 1) cur))]

/-- The state the walk is in at step 0. -/
def walkEnd (codes : Nat → StateNo → Bit) : (k : Nat) → (cur : StateNo) → StateNo
  | 0, cur => cur
  | k + 1, cur => walkEnd codes k (org (edgeNo cur (codes (k + 1) cur)))

/-- The decoded bits of a block of triples: the forward pass, then the walk from state 0
(45_block_operations.md R146). -/
def decodeTriples (ys : List (Triple Sym)) : List Bit :=
  walkBack (codeAt (forwardRows initRow ys)) ys.length 0

/-- decode(Y), no value outside its domain: 3N symbols, 1 <= N <= NMAX (45_block_operations.md R146). -/
def decodeBlock (nmax : Nat) (Y : List Sym) : Option (List Bit) :=
  match triplesOf Y with
  | none => none
  | some ys => if 1 ≤ ys.length ∧ ys.length ≤ nmax then some (decodeTriples ys) else none

/-! ## Trellis paths (42_forward_recursion.md R116) -/

/-- The state a path from `q` with these input bits ends in. -/
def pathEnd (q : StateNo) (bits : List Bit) : StateNo := bits.foldl trellisNext q

/-- The edge from `q` on input bit `b`. -/
def edgeFrom (q : StateNo) (b : Bit) : EdgeNo := edgeNo (trellisNext q b) (stateM0 q)

/-- The sum of the branch metrics along a path from `q`. -/
def pathScore (q : StateNo) : List Bit → List (Triple Sym) → Int
  | b :: bits, y :: ys => branchMetric y (edgeFrom q b) + pathScore (trellisNext q b) bits ys
  | _, _ => 0

/-! ## Pseudo-operations (30_encoding.md R82) -/

/-- `ENCODE B` (45_block_operations.md R141). -/
def expandEncode (B : List Bit) : List Instr :=
  (B.take 2).map Instr.encPad ++ (B.drop 2).map Instr.encBit ++ [Instr.encEnd]

/-- `CHANNEL S` (45_block_operations.md R143), given the triples of S. -/
def expandChannel (ts : List (Triple Bit)) : List Instr := ts.map Instr.mapTri

/-- `DECODE Y` (45_block_operations.md R145), given the triples of Y. `OUT.RD` has no index above 4095: for N > 4096 the
list has i modulo 4096 there (log 14, DESIGN CHOICE; Capacity has faulted by then). -/
def expandDecode (ys : List (Triple Sym)) : List Instr :=
  [Instr.fmrInit] ++ ys.map Instr.fmrStep ++ [Instr.tbStart] ++ List.replicate ys.length Instr.tbStep
    ++ (List.range ys.length).map fun i => Instr.outRd (BitVec.ofNat 12 i)

/-- `ROUNDTRIP B` (45_block_operations.md R147): ENCODE, then CHANNEL on its result, then DECODE on that. For B outside the
domain of encode, where ENCODE has no result, CHANNEL and DECODE are given `encodeTriples B` (log 15, DESIGN CHOICE). -/
def expandRoundTrip (B : List Bit) : List Instr :=
  expandEncode B ++ expandChannel (encodeTriples B) ++ expandDecode ((encodeTriples B).map (Triple.map symOfBit))

/-- The host presents the words of a command sequence (log 2). -/
def presentCommands (s : State) (is : List Instr) : State := presentLast s (is.map encode)

end Sys2Proof.Machine
end

