-- ==== Sys2Proof/Safety.lean ====
section
/-! DEFINITION. The terms claims use: the invariant of 10_state.md R49, reachability, the first cause in the order
of checks, and what it is for parts of two states to be equal. -/

namespace Sys2Proof.Safety

open Sys2Proof.Machine

/-! ## The invariant -/

/-- The invariants of 10_state.md R49, items (a) to (h), made inductive: `onePad`, `rowsForward`, `walkReachable`
and `outWritten` carry what the reasons of R49, R131 and R42 rest on. They hold with FLT = 1 too, since a
fault changes the latch alone (60_exceptions.md R168). -/
structure Inv (s : State) : Prop where
  /-- the tables are in canonical form and hold only cells that exist -/
  memWf : s.mem.wf s.cfg.nmax
  /-- R49 (a) -/
  epLe : s.ep.toNat ≤ 2
  /-- R49 (b) -/
  eneEp : s.ene = true → s.ep = 2
  /-- after one pad, m1 is that pad's 0 (40_encoder.md R91) -/
  onePad : s.ep = 1 → stateM1 s.m = false
  /-- R49 (c) -/
  padsClear : s.ep = 2 → s.ene = false → s.m = 0
  /-- R49 (d) -/
  tLe : s.t.toNat ≤ s.cfg.nmax
  /-- R49 (e) -/
  idleT : s.dp = .idle → s.t = 0
  /-- R49 (f) -/
  tbK : s.dp = .tb → 1 ≤ s.k.toNat ∧ s.k.toNat ≤ s.t.toNat
  /-- R49 (g) -/
  doneK : s.dp = .done → s.k = 0 ∧ 1 ≤ s.t.toNat ∧ s.cur = 0
  /-- R49 (h), row 0: `FMR.INIT` has written it -/
  rowZero : s.dp ≠ .idle → ∀ q, readCell s.mem.d (cellAddr 0 q) = some (initRow.get q)
  /-- every later row of D and P up to T was written by a forward step from the row before it -/
  rowsForward : s.dp ≠ .idle → ∀ n, n < s.t.toNat → ∃ y, ∀ q,
    readCell s.mem.d (cellAddr (n + 1) q) = some (selectEdge (s.dRow n) y q).1 ∧
    readCell s.mem.p (cellAddr (n + 1) q) = some (selectEdge (s.dRow n) y q).2
  /-- the walk is on a reachable cell (43_traceback.md R131) -/
  walkReachable : s.dp = .tb → s.dCell s.k.toNat s.cur ≠ .unr
  /-- the walk has written OUT from K up (43_traceback.md R127) -/
  outWritten : s.dp = .tb ∨ s.dp = .done → ∀ i, s.k.toNat ≤ i → i < s.t.toNat → ∃ b, readCell s.mem.out i = some b
  /-- the latch: CAUSE is 0 exactly while FLT is 0, and never TableInconsistent (10_state.md R30, 60_exceptions.md R163) -/
  latch : (s.flt = false ∧ s.cause = 0) ∨ (s.flt = true ∧ s.cause ∈ ([1, 2, 4, 5, 6, 7] : List (BitVec 4)))

/-- The states the host can bring a CORE of any configuration to, by presenting words at the command port
(30_encoding.md R70, 00_scope.md R15). -/
inductive Reachable : State → Prop where
  | reset (c : Config) : Reachable { State.reset with cfg := c }
  | present {s : State} (w : Word16) : Reachable s → Reachable (presentLast s [w])
  | step {s t : State} : Reachable s → step s = .next t → Reachable t

/-! ## The order of checks -/

/-- The phases a command is legal in, as 60_exceptions.md R164 lists them. -/
def phaseAllows : Instr → State → Bool
  | .coreRst, _ => true
  | .coreStat, _ => true
  | .encPad _, s => !(s.ep == 2)
  | .encBit _, s => !(s.ep == 0 || s.ep == 1)
  | .encEnd, _ => true
  | .mapTri _, _ => true
  | .fmrInit, _ => true
  | .fmrStep _, s => !(s.dp == .idle || s.dp == .tb || s.dp == .done)
  | .fmrRdm _, s => !(s.dp == .idle)
  | .tbStart, s => !(s.dp == .idle || s.dp == .tb || s.dp == .done)
  | .tbStep, s => !(s.dp == .idle || s.dp == .fwd || s.dp == .done)
  | .outRd _, s => !(s.dp == .idle || s.dp == .fwd || s.dp == .tb)

/-- The remaining check of a command and its cause, where it fails (60_exceptions.md R161, R162, R165, R167). -/
def remainingCause : Instr → State → Option Cause
  | .encPad b, _ => if b then some .padNonZero else none
  | .encEnd, s => if s.ene then none else some .lengthZero
  | .fmrStep _, s => if s.t.toNat = s.cfg.nmax then some .capacity else none
  | .tbStart, s => if s.t.toNat = 0 then some .lengthZero else none
  | .outRd i, s => if s.t.toNat ≤ i.toNat then some .indexRange else none
  | .coreRst, _ => none
  | .coreStat, _ => none
  | .encBit _, _ => none
  | .mapTri _, _ => none
  | .fmrInit, _ => none
  | .fmrRdm _, _ => none
  | .tbStep, _ => none

/-- The cause a command reports while FLT = 0: the phase first, then its remaining check (60_exceptions.md R170). -/
def firstCause (i : Instr) (s : State) : Option Cause :=
  if phaseAllows i s then remainingCause i s else some .sequence

/-- A word that is no command of the opcode map (30_encoding.md R74, R76). -/
def isIllegal (w : Word16) : Prop := ∀ r ∈ opcodeTable, w &&& r.mask ≠ r.pattern

/-! ## Response words -/

/-- The response word whose value is `n`. -/
abbrev word (n : Nat) : Word32 := BitVec.ofNat 32 n

/-- The response of a fault or rejection with code `n`: err = n, U = 0, data = 0 (30_encoding.md R75). -/
abbrev errWord (n : Nat) : Word32 := BitVec.ofNat 32 (n * 2 ^ 28)

/-- A triple read as a binary numeral, first element highest (20_memory.md R54). -/
def tripleNat (x : Triple Bit) : Nat := 4 * x.x0.toNat + 2 * x.x1.toNat + x.x2.toNat

/-- The codes of DP (10_state.md R26). -/
def phaseNat : Phase → Nat
  | .idle => 0
  | .fwd => 1
  | .tb => 2
  | .done => 3

/-! ## The families and their state -/

/-- The commands of 40_encoder.md. -/
def isEncoder : Instr → Bool
  | .encPad _ => true
  | .encBit _ => true
  | .encEnd => true
  | _ => false

/-- The commands of 42_forward_recursion.md. -/
def isForward : Instr → Bool
  | .fmrInit => true
  | .fmrStep _ => true
  | .fmrRdm _ => true
  | _ => false

/-- The commands of 43_traceback.md. -/
def isTraceback : Instr → Bool
  | .tbStart => true
  | .tbStep => true
  | .outRd _ => true
  | _ => false

/-- The encoder registers are equal (10_state.md R20). -/
def SameEncoder (s t : State) : Prop := t.m = s.m ∧ t.ep = s.ep ∧ t.ene = s.ene

/-- The decoder registers are equal (10_state.md R20). -/
def SameDecoder (s t : State) : Prop := t.t = s.t ∧ t.dp = s.dp ∧ t.cur = s.cur ∧ t.k = s.k

/-- The fault latch is equal. -/
def SameLatch (s t : State) : Prop := t.flt = s.flt ∧ t.cause = s.cause

/-- Every cell of D, P and OUT reads the same. -/
def SameTables (s t : State) : Prop :=
  (∀ n q, t.dCell n q = s.dCell n q) ∧ (∀ n q, t.pCell n q = s.pCell n q) ∧ ∀ i, t.outCell i = s.outCell i

/-- What no command but `CORE.RST` touches besides: the words still presented, the configuration, the reset
count. -/
def SameRest (s t : State) : Prop := t.cmdIn = s.cmdIn ∧ t.cfg = s.cfg ∧ t.resets = s.resets

/-- A state without its ports: the state of 10_state.md R20, the configuration and the reset count. -/
def corePart (s : State) : State := { s with cmdIn := [], rspOut := [] }

/-! ## Blocks -/

/-- The last two bits of B are 0: the encoder returns to (0,0) (40_encoder.md R99, 43_traceback.md R132). -/
def terminated (B : List Bit) : Prop := B.reverse.getD 0 false = false ∧ B.reverse.getD 1 false = false

/-- What an error-free channel delivers of a message after two zero pads (45_block_operations.md R140). -/
def sentTriples (msg : List Bit) : List (Triple Sym) :=
  (encodeTriples (false :: false :: msg)).map (Triple.map symOfBit)

/-- Row t of D in a run that receives the triples `ys` (42_forward_recursion.md R112). -/
def rowAfter (ys : List (Triple Sym)) (t : Nat) : Row Metric := metricsAfter initRow (ys.take t)

end Sys2Proof.Safety
end

