-- ==== Sys2Proof/Certificates/Slice0/Obligations.lean ====
section
/-! DEFINITION. The statements for the provers. In every statement `word n` is the response word of value n
(err = 0, so n is its data field and its U flag) and `errWord n` the response with err = n and the rest 0
(30_encoding.md R75). -/

open Sys2Proof Sys2Proof.Machine Sys2Proof.Safety

/-! ## Encoding -/

/-- Words written out from 30_encoding.md R76 and R81, one or more per row, decode to their commands. -/
def Obligations.SpecWordsDecode : Prop :=
  decode 0x1000 = .ok .coreRst ∧ decode 0x2000 = .ok .coreStat ∧
  decode 0x4000 = .ok (.encPad false) ∧ decode 0x5001 = .ok (.encBit true) ∧ decode 0x6000 = .ok .encEnd ∧
  decode 0x7005 = .ok (.mapTri ⟨true, false, true⟩) ∧
  decode 0x8000 = .ok .fmrInit ∧ decode 0x9006 = .ok (.fmrStep ⟨.minus, .minus, .plus⟩) ∧
  decode 0xA002 = .ok (.fmrRdm 2) ∧
  decode 0xC000 = .ok .tbStart ∧ decode 0xD000 = .ok .tbStep ∧ decode 0xE3FD = .ok (.outRd 1021)

/-- Decoding the word of any command gives the command back, with every operand at every value. -/
def Obligations.DecodeOfEncodeIsIdentity : Prop :=
  ∀ i : Instr, decode (encode i) = .ok i

/-- A word that decodes is the word of the command it decodes to: no two words mean one command. -/
def Obligations.EncodeOfDecodeIsIdentity : Prop :=
  ∀ (w : Word16) (i : Instr), decode w = .ok i → encode i = w

/-- 30_encoding.md R76: a word is the command of a row exactly when (W and mask) = match. -/
def Obligations.WordIsCommandExactlyByMaskAndMatch : Prop :=
  ∀ (w : Word16), ∀ r ∈ opcodeTable,
    (∃ i, decode w = .ok i ∧ i.mnemonic = r.mnemonic) ↔ w &&& r.mask = r.pattern

/-- 30_encoding.md R77: every word with a reserved operation code is illegal, whatever arg holds; in particular
the all-zero and the all-ones word. -/
def Obligations.ReservedOperationCodesAreIllegal : Prop :=
  (∀ w : Word16, w.toNat / 4096 ∈ [0x0, 0x3, 0xB, 0xF] → decode w = .error .reservedOp) ∧
  decode 0x0000 = .error .reservedOp ∧ decode 0xFFFF = .error .reservedOp

/-- 30_encoding.md R78: of the 65536 words, 16384 have a reserved op, 4126 are legal and 61410 are illegal; a
word whose op is defined and which has a 1 in a reserved bit of its format is illegal. -/
def Obligations.LegalWordsCounted : Prop :=
  ((List.range 65536).countP fun n => decide (decode (BitVec.ofNat 16 n) = .error .reservedOp)) = 16384 ∧
  ((List.range 65536).countP fun n => (decode (BitVec.ofNat 16 n)).toOption.isSome) = 4126 ∧
  ((List.range 65536).countP fun n => (decode (BitVec.ofNat 16 n)).toOption.isNone) = 61410 ∧
  ∀ (w : Word16) (m : Mnemonic), m.op.toNat = w.toNat / 4096 →
    (BitVec.ofNat 12 (w.toNat % 4096)) &&& m.format.reserved ≠ 0 → decode w = .error .reservedBits

/-- The assembler syntax of 30_encoding.md R81: the line written for a command assembles to it, with or without
a comment after it. -/
def Obligations.AssemblingAPrintedLineGivesTheCommand : Prop :=
  ∀ (i : Instr) (comment : List Char),
    assembleLine (printLine i) = some i ∧ assembleLine (printLine i ++ ' ' :: ';' :: comment) = some i

/-! ## The step and the fault mechanism -/

/-- A step takes the oldest word presented and, when it decodes, runs that command with the word taken. -/
def Obligations.StepRunsTheDecodedCommand : Prop :=
  ∀ (s : State) (w : Word16) (rest : List Word16) (i : Instr),
    s.cmdIn = w :: rest → decode w = .ok i → step s = exec i { s with cmdIn := rest }

/-- With no word presented nothing changes. The model's reading of 00_scope.md R14, log 3. -/
def Obligations.NothingChangesBetweenCommands : Prop :=
  ∀ s : State, s.cmdIn = [] → step s = .next s

/-- 60_exceptions.md R166: any word that is no command of the opcode map raises IllegalCommand (code 6) while
FLT = 0, and nothing else changes; while FLT = 1 it is rejected like every other word. -/
def Obligations.IllegalWordRaisesIllegalCommand : Prop :=
  ∀ (s : State) (w : Word16) (rest : List Word16), s.cmdIn = w :: rest → isIllegal w →
    (s.flt = false → step s =
      .next { s with cmdIn := rest, flt := true, cause := 6, rspOut := s.rspOut ++ [errWord 6] }) ∧
    (s.flt = true → step s = .next { s with cmdIn := rest, rspOut := s.rspOut ++ [errWord 15] })

/-- 60_exceptions.md R169: with FLT = 1 every word other than a legal CORE.STAT or CORE.RST is rejected with
code 15 and no state changes; CORE.STAT completes and shows FLT (bit 9) and CAUSE (bits 13:10). -/
def Obligations.FaultedCoreRejectsEveryOtherWord : Prop :=
  ∀ (s : State) (w : Word16) (rest : List Word16), s.cmdIn = w :: rest → s.flt = true →
    (w ≠ 0x1000 → w ≠ 0x2000 → step s = .next { s with cmdIn := rest, rspOut := s.rspOut ++ [errWord 15] }) ∧
    (w = 0x2000 → ∃ r : Word32, step s = .next { s with cmdIn := rest, rspOut := s.rspOut ++ [r] } ∧
      r.extractLsb' 28 4 = 0 ∧ r.getLsbD 9 = true ∧ r.extractLsb' 10 4 = s.cause)

/-- 60_exceptions.md R168: a command that raises a fault with FLT = 0 sets FLT and CAUSE, answers err = c with
U = 0 and data = 0, and changes nothing else. -/
def Obligations.FaultEntryChangesOnlyTheLatch : Prop :=
  ∀ (i : Instr) (s t : State), s.flt = false → exec i s = .next t → t.flt = true →
    ∃ c : Nat, 1 ≤ c ∧ c ≤ 7 ∧
      t = { s with flt := true, cause := BitVec.ofNat 4 c, rspOut := s.rspOut ++ [errWord c] }

/-- 60_exceptions.md R164 and R170: with FLT = 0 a command reports exactly the first cause in the order phase,
then its remaining check, and completes without a fault when there is none. -/
def Obligations.CommandReportsTheFirstCause : Prop :=
  ∀ (i : Instr) (s : State), Inv s → s.flt = false →
    (∀ c, firstCause i s = some c →
      exec i s = .next { s with flt := true, cause := c.code, rspOut := s.rspOut ++ [errWord c.code.toNat] }) ∧
    (firstCause i s = none → ∃ t, exec i s = .next t ∧ t.flt = false)

/-- 60_exceptions.md R171: the only way to clear FLT is reset, which also discards every run in progress, and while
FLT = 1 nothing can fault (CAUSE keeps the first cause). -/
def Obligations.OnlyResetClearsTheFault : Prop :=
  ∀ s t : State, s.flt = true → step s = .next t →
    (t.flt = false → (∃ rest, s.cmdIn = 0x1000 :: rest) ∧ t.ep = 0 ∧ t.ene = false ∧ t.dp = .idle) ∧
    (t.flt = true → t.cause = s.cause)

/-- 30_encoding.md R70, R75: a step that takes a word answers exactly one response word, laid out as R75 says. -/
def Obligations.OneResponseWordPerCommand : Prop :=
  ∀ (s t : State) (w : Word16) (rest : List Word16), s.cmdIn = w :: rest → step s = .next t →
    t.cmdIn = rest ∧ ∃ r : Word32, t.rspOut = s.rspOut ++ [r] ∧
      r.extractLsb' 17 11 = 0 ∧
      (r.toNat / 2 ^ 28 ≤ 7 ∨ r.toNat / 2 ^ 28 = 15) ∧
      (r.toNat / 2 ^ 28 ≠ 0 → r.toNat % 2 ^ 28 = 0) ∧
      (r.getLsbD 16 = true → ∃ q, decode w = .ok (.fmrRdm q))

/-- No hidden state (10_state.md R47, 45_block_operations.md R149): what a command answers and the state it
leaves depend on neither the responses already given nor the words still presented. -/
def Obligations.OutcomeIndependentOfThePorts : Prop :=
  ∀ (i : Instr) (s s' t : State), corePart s = corePart s' → exec i s = .next t →
    ∃ (t' : State) (r : Word32), exec i s' = .next t' ∧ corePart t = corePart t' ∧
      t.rspOut = s.rspOut ++ [r] ∧ t'.rspOut = s'.rspOut ++ [r] ∧ t.cmdIn = s.cmdIn ∧ t'.cmdIn = s'.cmdIn

/-! ## Invariants -/

/-- The invariant holds after reset, for every configuration. -/
def Obligations.InvariantHoldsAtReset : Prop :=
  ∀ c : Config, Inv { State.reset with cfg := c }

/-- Every step from a state that satisfies the invariant, whatever word is presented, gives such a state. -/
def Obligations.StepKeepsTheInvariant : Prop :=
  ∀ s t : State, Inv s → step s = .next t → Inv t

/-- 00_scope.md R16: the step is total. In every state, those no run reaches among them, a step gives a next state,
and a word presented, whatever it is, is taken and answered by one response word. -/
def Obligations.StepNeverStops : Prop :=
  (∀ s : State, ∃ t, step s = .next t) ∧
  ∀ (s : State) (w : Word16) (rest : List Word16), s.cmdIn = w :: rest →
    ∃ (t : State) (r : Word32), step s = .next t ∧ t.cmdIn = rest ∧ t.rspOut = s.rspOut ++ [r]

/-- 10_state.md R49, items (a) to (h), of every state the host can bring CORE to. -/
def Obligations.ReachableStatesKeepTheStateInvariants : Prop :=
  ∀ s : State, Reachable s →
    s.ep.toNat ≤ 2 ∧
    (s.ene = true → s.ep = 2) ∧
    (s.ep = 2 → s.ene = false → s.m = 0) ∧
    s.t.toNat ≤ s.cfg.nmax ∧
    (s.dp = .idle → s.t = 0) ∧
    (s.dp = .tb → 1 ≤ s.k.toNat ∧ s.k.toNat ≤ s.t.toNat) ∧
    (s.dp = .done → s.k = 0 ∧ 1 ≤ s.t.toNat ∧ s.cur = 0) ∧
    (s.dp ≠ .idle → s.dCell 0 0 = .val 0 ∧ s.dCell 0 1 = .unr ∧ s.dCell 0 2 = .unr ∧ s.dCell 0 3 = .unr ∧
      ∀ n, n ≤ s.t.toNat → s.dCell n 0 ≠ .unr)

/-- 10_state.md R42: no command reads a cell that no command has written since the last reset. Whatever free
values the unwritten cells hold (`resets` selects them), the step gives the same response and the same state. That
free values selected by the reset count stand for unspecified cells is the model's choice (log 5, DESIGN CHOICE). -/
def Obligations.UnwrittenCellsAreNeverRead : Prop :=
  ∀ (s : State) (n : Nat), Inv s →
    ∃ t m, step s = .next t ∧ step { s with resets := n } = .next { t with resets := m }

/-- 10_state.md R38: an integer metric in row n lies in -3n..3n. -/
def Obligations.MetricStaysWithinThreeTimesTheStep : Prop :=
  ∀ (s : State), Inv s → s.dp ≠ .idle → ∀ (n : Nat) (q : StateNo) (v : Int), n ≤ s.t.toNat →
    s.dCell n q = .val v → -3 * (n : Int) ≤ v ∧ v ≤ 3 * (n : Int)

/-- 42_forward_recursion.md R113: row 0 has an integer at state 0 only, row 1 at states 0 and 2 only, rows 2 and
above at all four states. -/
def Obligations.ReachabilityIsFixedByTheTrellis : Prop :=
  ∀ (s : State), Inv s → s.dp ≠ .idle → ∀ (n : Nat) (q : StateNo), n ≤ s.t.toNat →
    (s.dCell n q ≠ .unr ↔ (n = 0 ∧ q = 0) ∨ (n = 1 ∧ (q = 0 ∨ q = 2)) ∨ 2 ≤ n)

/-- The rows of D and P a run has stored are those of the recursion of 42_forward_recursion.md R112 on one
sequence of triples. -/
def Obligations.StoredRowsFollowTheRecursion : Prop :=
  ∀ (s : State), Inv s → s.dp ≠ .idle →
    ∃ ys : List (Triple Sym), ys.length = s.t.toNat ∧
      (∀ n q, n ≤ s.t.toNat → s.dCell n q = (rowAfter ys n).get q) ∧
      (∀ n q, 1 ≤ n → n ≤ s.t.toNat → s.pCell n q = codeAt (forwardRows initRow ys) n q)

/-! ## Control -/

/-- 44_core_control.md R135: CORE.RST runs in every state and puts every register to its reset value, makes every
table cell unspecified and answers 0; with tables that fail TablesOK the reset would leave FLT = 1 and
CAUSE = 3 and answer err = 3. -/
def Obligations.CoreRstResetsEverything : Prop :=
  encode .coreRst = 0x1000 ∧
  (∀ s : State, exec .coreRst s = .next { s with
    m := 0, ep := 0, ene := false, t := 0, dp := .idle, cur := 0, k := 0, flt := false, cause := 0,
    mem := ⟨[], [], []⟩, resets := s.resets + 1, rspOut := s.rspOut ++ [word 0] }) ∧
  ∀ (s : State) (tb : Tables), tb.ok = false → resetCore tb s = .next { s with
    m := 0, ep := 0, ene := false, t := 0, dp := .idle, cur := 0, k := 0, flt := true, cause := 3,
    mem := ⟨[], [], []⟩, resets := s.resets + 1, rspOut := s.rspOut ++ [errWord 3] }

/-- 44_core_control.md R136 and 10_state.md R31: CORE.STAT runs in every state, changes none and answers
EP + 4*ENE + 8*M + 32*DP + 128*CUR + 512*FLT + 1024*CAUSE. -/
def Obligations.CoreStatAnswersTheStatusView : Prop :=
  encode .coreStat = 0x2000 ∧
  ∀ s : State, exec .coreStat s = .next { s with rspOut := s.rspOut ++
    [word (s.ep.toNat + 4 * s.ene.toNat + 8 * s.m.toNat + 32 * phaseNat s.dp + 128 * s.cur.toNat
      + 512 * s.flt.toNat + 1024 * s.cause.toNat)] }

/-- 10_state.md R41: the state after reset. -/
def Obligations.ResetValuesOfEveryRegister : Prop :=
  let s := State.reset
  s.m = 0 ∧ s.ep = 0 ∧ s.ene = false ∧ s.t = 0 ∧ s.dp = .idle ∧ s.cur = 0 ∧ s.k = 0 ∧
  (trellisTables.ok = true ∧ s.flt = false ∧ s.cause = 0) ∧ s.mem = ⟨[], [], []⟩

/-- 10_state.md R33 to R35 and 60_exceptions.md R163: the constants pass TablesOK, and the entries of REF, LBL
and ORG are what the encoder function and the numbering of states and edges give: for e = 2*d + p the origin
is (d[0], p), the input bit is d[1] and REF[e] is the image of the encoder's output. -/
def Obligations.TrellisTablesAreTheEncodersOwn : Prop :=
  trellisTables.ok = true ∧
  ∀ (d1 d0 p : Bit),
    let d : StateNo := BitVec.ofNat 2 (2 * d1.toNat + d0.toNat)
    let e : EdgeNo := BitVec.ofNat 3 (2 * d.toNat + p.toNat)
    edgeNo d p = e ∧ (org e).toNat = 2 * d0.toNat + p.toNat ∧ lbl e = d1 ∧
      refOut e = ⟨symOfBit (d1 ^^ d0 ^^ p), symOfBit (d1 ^^ p), symOfBit d1⟩

/-! ## Encoder -/

/-- 40_encoder.md R91, `ENC.PAD b`: a third pad raises Sequence, a pad of value 1 raises PadNonZero, any other pad
shifts 0 in, counts and answers 0. -/
def Obligations.EncPadTakesOnePad : Prop :=
  (∀ b : Bit, encode (.encPad b) = BitVec.ofNat 16 (0x4000 + b.toNat)) ∧
  ∀ (s : State), s.flt = false →
    (∀ b, s.ep = 2 → exec (.encPad b) s =
      .next { s with flt := true, cause := 4, rspOut := s.rspOut ++ [errWord 4] }) ∧
    (s.ep ≠ 2 → exec (.encPad true) s =
      .next { s with flt := true, cause := 2, rspOut := s.rspOut ++ [errWord 2] }) ∧
    (s.ep ≠ 2 → exec (.encPad false) s =
      .next { s with m := BitVec.ofNat 2 (s.m.toNat / 2), ep := s.ep + 1, rspOut := s.rspOut ++ [word 0] })

/-- 40_encoder.md R93, `ENC.BIT b`: Sequence with fewer than two pads taken; otherwise it answers s0 s1 s2 of the
old memory, shifts b in and sets ENE. -/
def Obligations.EncBitEncodesOneBit : Prop :=
  (∀ b : Bit, encode (.encBit b) = BitVec.ofNat 16 (0x5000 + b.toNat)) ∧
  ∀ (s : State) (b : Bit), s.flt = false →
    (s.ep ≠ 2 → exec (.encBit b) s =
      .next { s with flt := true, cause := 4, rspOut := s.rspOut ++ [errWord 4] }) ∧
    (s.ep = 2 → exec (.encBit b) s =
      .next { s with
        m := BitVec.ofNat 2 (2 * b.toNat + s.m.toNat / 2), ene := true,
        rspOut := s.rspOut ++ [word (4 * (b ^^ s.m.getLsbD 1 ^^ s.m.getLsbD 0).toNat
          + 2 * (b ^^ s.m.getLsbD 0).toNat + b.toNat)] })

/-- 40_encoder.md R94, `ENC.END`: LengthZero when no message bit was encoded; otherwise it answers M, clears EP and
ENE and leaves M. -/
def Obligations.EncEndClosesTheMessage : Prop :=
  encode .encEnd = 0x6000 ∧
  ∀ (s : State), s.flt = false →
    (s.ene = false → exec .encEnd s =
      .next { s with flt := true, cause := 1, rspOut := s.rspOut ++ [errWord 1] }) ∧
    (s.ene = true → exec .encEnd s =
      .next { s with ep := 0, ene := false, rspOut := s.rspOut ++ [word s.m.toNat] })

/-- 40_encoder.md R95: the outputs by integer addition followed by reduction. -/
def Obligations.EncoderOutputsByAddAndReduce : Prop :=
  ∀ b m1 m0 : Bit,
    (encOut b m1 m0).x0.toNat = [0, 1, 0, 1].getD (b.toNat + m1.toNat + m0.toNat) 0 ∧
    (encOut b m1 m0).x1.toNat = [0, 1, 0].getD (b.toNat + m0.toNat) 0 ∧
    (encOut b m1 m0).x2 = b

/-- 40_encoder.md R91: two pads from any memory whatever leave M = (0,0) and EP = 2. -/
def Obligations.TwoPadsClearTheMemory : Prop :=
  ∀ (s : State), s.flt = false → s.ep = 0 →
    ∃ t u, exec (.encPad false) s = .next t ∧ exec (.encPad false) t = .next u ∧
      u.m = 0 ∧ u.ep = 2 ∧ u.ene = s.ene ∧ u.flt = false

/-- 40_encoder.md R90: encoder commands write only M, EP, ENE and the fault latch, and what they do depends on
those alone. -/
def Obligations.EncoderTouchesOnlyItsRegisters : Prop :=
  ∀ (i : Instr) (s : State), isEncoder i = true →
    ∃ t, exec i s = .next t ∧ SameDecoder s t ∧ t.mem = s.mem ∧ SameTables s t ∧ SameRest s t ∧
      ∀ s', SameEncoder s s' → SameLatch s s' →
        ∃ t' r, exec i s' = .next t' ∧ SameEncoder t t' ∧ SameLatch t t' ∧
          t.rspOut = s.rspOut ++ [r] ∧ t'.rspOut = s'.rspOut ++ [r]

/-! ## Mapper -/

/-- 41_channel_mapper.md R101, `MAP.TRI`: legal in every phase, it answers the wire codes of the symbols of its
three bits, which are the bits themselves, and changes nothing. -/
def Obligations.MapTriIsTheIdentityOnTheWire : Prop :=
  (∀ x : Triple Bit, encode (.mapTri x) = BitVec.ofNat 16 (0x7000 + tripleNat x)) ∧
  (∀ x : Triple Bit, (x.map symOfBit).map Sym.code = x) ∧
  ∀ (s : State) (x : Triple Bit), s.flt = false →
    exec (.mapTri x) s = .next { s with rspOut := s.rspOut ++ [word (tripleNat x)] }

/-! ## Forward recursion -/

/-- 42_forward_recursion.md R107, `FMR.INIT`: legal in every phase, it writes row 0, clears T, sets DP to FWD and
leaves everything else. -/
def Obligations.FmrInitStartsARun : Prop :=
  encode .fmrInit = 0x8000 ∧
  ∀ (s : State), s.flt = false →
    ∃ t, exec .fmrInit s = .next t ∧
      t.dCell 0 0 = .val 0 ∧ t.dCell 0 1 = .unr ∧ t.dCell 0 2 = .unr ∧ t.dCell 0 3 = .unr ∧
      t.t = 0 ∧ t.dp = .fwd ∧ t.rspOut = s.rspOut ++ [word 0] ∧
      t.cur = s.cur ∧ t.k = s.k ∧ SameEncoder s t ∧ SameLatch s t ∧ SameRest s t ∧
      (∀ n q, n ≠ 0 → t.dCell n q = s.dCell n q) ∧ (∀ n q, t.pCell n q = s.pCell n q) ∧
      ∀ i, t.outCell i = s.outCell i

/-- 42_forward_recursion.md R108, R109: the branch metric is 3 - 2h, h the number of positions in which the triple
and REF[e] differ; each triple has exactly one edge with +3. -/
def Obligations.BranchMetricCountsDifferences : Prop :=
  ∀ (y : Triple Sym),
    (∀ e : EdgeNo, branchMetric y e =
      3 - 2 * ((if y.x0 = (refOut e).x0 then 0 else 1) + (if y.x1 = (refOut e).x1 then 0 else 1)
        + (if y.x2 = (refOut e).x2 then 0 else 1))) ∧
    ∃ e : EdgeNo, branchMetric y e = 3 ∧ ∀ e' : EdgeNo, branchMetric y e' = 3 → e' = e

/-- 42_forward_recursion.md R106, R110: metric addition and comparison. -/
def Obligations.MetricArithmeticTreatsUnreachable : Prop :=
  (∀ n : Int, madd .unr n = .unr) ∧ (∀ v n : Int, madd (.val v) n = .val (v + n)) ∧
  (∀ a : Metric, mge a .unr = true) ∧ (∀ v : Int, mge .unr (.val v) = false) ∧
  ∀ v w : Int, mge (.val v) (.val w) = true ↔ w ≤ v

/-- 42_forward_recursion.md R112, `FMR.STEP`: Sequence outside phase FWD, Capacity at T = NMAX; otherwise, for
each destination d, the larger of the two candidates (the first on equality) is written to D[T+1,d] and its
code to P[T+1,d], T counts, and the answer is the new T. No other cell and no other register changes. -/
def Obligations.FmrStepSelectsTheBetterEdge : Prop :=
  (∀ y : Triple Sym, encode (.fmrStep y) = BitVec.ofNat 16 (0x9000 + tripleNat (y.map Sym.code))) ∧
  ∀ (s : State) (y : Triple Sym), s.flt = false →
    (s.dp ≠ .fwd → exec (.fmrStep y) s =
      .next { s with flt := true, cause := 4, rspOut := s.rspOut ++ [errWord 4] }) ∧
    (s.dp = .fwd → s.t.toNat = s.cfg.nmax → exec (.fmrStep y) s =
      .next { s with flt := true, cause := 5, rspOut := s.rspOut ++ [errWord 5] }) ∧
    (s.dp = .fwd → s.t.toNat < s.cfg.nmax →
      ∃ t, exec (.fmrStep y) s = .next t ∧
        (∀ d1 d0 : Bit,
          let d : StateNo := BitVec.ofNat 2 (2 * d1.toNat + d0.toNat)
          let o0 : StateNo := BitVec.ofNat 2 (2 * d0.toNat)
          let o1 : StateNo := BitVec.ofNat 2 (2 * d0.toNat + 1)
          let c0 := madd (s.dCell s.t.toNat o0) (branchMetric y (BitVec.ofNat 3 (2 * d.toNat)))
          let c1 := madd (s.dCell s.t.toNat o1) (branchMetric y (BitVec.ofNat 3 (2 * d.toNat + 1)))
          (mge c0 c1 = true → t.dCell (s.t.toNat + 1) d = c0 ∧ t.pCell (s.t.toNat + 1) d = false) ∧
          (mge c0 c1 = false → t.dCell (s.t.toNat + 1) d = c1 ∧ t.pCell (s.t.toNat + 1) d = true)) ∧
        t.t.toNat = s.t.toNat + 1 ∧ t.rspOut = s.rspOut ++ [word (s.t.toNat + 1)] ∧
        t.dp = .fwd ∧ t.cur = s.cur ∧ t.k = s.k ∧ SameEncoder s t ∧ SameLatch s t ∧ SameRest s t ∧
        (∀ n q, n ≠ s.t.toNat + 1 → t.dCell n q = s.dCell n q ∧ t.pCell n q = s.pCell n q) ∧
        ∀ i, t.outCell i = s.outCell i)

/-- 42_forward_recursion.md R118, `FMR.RDM`: Sequence before the first FMR.INIT; otherwise it answers D[T,s], an
integer as 16-bit two's complement or U = 1 with data 0, and changes nothing. -/
def Obligations.FmrRdmAnswersTheNewestMetric : Prop :=
  (∀ q : StateNo, encode (.fmrRdm q) = BitVec.ofNat 16 (0xA000 + q.toNat)) ∧
  ∀ (s : State) (q : StateNo), s.flt = false →
    (s.dp = .idle → exec (.fmrRdm q) s =
      .next { s with flt := true, cause := 4, rspOut := s.rspOut ++ [errWord 4] }) ∧
    (s.dp ≠ .idle →
      (s.dCell s.t.toNat q = .unr → exec (.fmrRdm q) s = .next { s with rspOut := s.rspOut ++ [word 0x10000] }) ∧
      ∀ v : Int, s.dCell s.t.toNat q = .val v →
        exec (.fmrRdm q) s = .next { s with rspOut := s.rspOut ++ [word (v % 65536).toNat] })

/-- 42_forward_recursion.md R105: FMR commands write only T, DP, D and P and the fault latch. -/
def Obligations.ForwardTouchesOnlyItsState : Prop :=
  ∀ (i : Instr) (s t : State), isForward i = true → exec i s = .next t →
    SameEncoder s t ∧ t.cur = s.cur ∧ t.k = s.k ∧ SameRest s t ∧ t.mem.out = s.mem.out ∧
    (∀ j, t.outCell j = s.outCell j) ∧
    (∀ n q, n ≠ t.t.toNat → t.dCell n q = s.dCell n q ∧ t.pCell n q = s.pCell n q)

/-- 42_forward_recursion.md R116: D[t,s] is the largest sum of branch metrics over the trellis paths of t edges
from state 0 to s, UNR if there is none, and P[t,s] names the last edge of a path that attains it, the
first-enumerated edge when both do. -/
def Obligations.PathMetricIsTheBestPath : Prop :=
  ∀ (ys : List (Triple Sym)) (q : StateNo),
    ((rowAfter ys ys.length).get q = .unr ↔ ∀ bits : List Bit, bits.length = ys.length → pathEnd 0 bits ≠ q) ∧
    (∀ v : Int, (rowAfter ys ys.length).get q = .val v ↔
      (∃ bits : List Bit, bits.length = ys.length ∧ pathEnd 0 bits = q ∧ pathScore 0 bits ys = v) ∧
      ∀ bits : List Bit, bits.length = ys.length → pathEnd 0 bits = q → pathScore 0 bits ys ≤ v) ∧
    (∀ v : Int, 1 ≤ ys.length → (rowAfter ys ys.length).get q = .val v →
      (∃ bits : List Bit, bits.length = ys.length ∧ pathEnd 0 bits = q ∧ pathScore 0 bits ys = v ∧
        stateM0 (pathEnd 0 bits.dropLast) = codeAt (forwardRows initRow ys) ys.length q) ∧
      (codeAt (forwardRows initRow ys) ys.length q = true →
        ∀ bits : List Bit, bits.length = ys.length → pathEnd 0 bits = q → pathScore 0 bits ys = v →
          stateM0 (pathEnd 0 bits.dropLast) = true))

/-- 42_forward_recursion.md R117: on an error-free channel the transmitted path's metric at step t is exactly 3t,
the largest value in row t, and the transmitted edge wins strictly. -/
def Obligations.TransmittedPathScoresThreePerStep : Prop :=
  ∀ (msg : List Bit) (n : Nat), n ≤ msg.length →
    (rowAfter (sentTriples msg) n).get (pathEnd 0 (msg.take n)) = .val (3 * n) ∧
    (∀ q v, (rowAfter (sentTriples msg) n).get q = .val v → v ≤ 3 * n) ∧
    ∀ (b : Bit) (y : Triple Sym), msg[n]? = some b → (sentTriples msg)[n]? = some y →
      let d := pathEnd 0 (msg.take (n + 1))
      let p := stateM0 (pathEnd 0 (msg.take n))
      mge (candidate (rowAfter (sentTriples msg) n) y d (!p)) (candidate (rowAfter (sentTriples msg) n) y d p) = false

/-! ## Traceback -/

/-- 43_traceback.md R126, `TB.START`: Sequence outside phase FWD, LengthZero at T = 0; otherwise CUR <- 0, K <- T,
DP <- TB and the answer is T, whatever row T of D holds. -/
def Obligations.TbStartBeginsInStateZero : Prop :=
  encode .tbStart = 0xC000 ∧
  ∀ (s : State), s.flt = false →
    (s.dp ≠ .fwd → exec .tbStart s =
      .next { s with flt := true, cause := 4, rspOut := s.rspOut ++ [errWord 4] }) ∧
    (s.dp = .fwd → s.t = 0 → exec .tbStart s =
      .next { s with flt := true, cause := 1, rspOut := s.rspOut ++ [errWord 1] }) ∧
    (s.dp = .fwd → s.t ≠ 0 → exec .tbStart s =
      .next { s with cur := 0, k := s.t, dp := .tb, rspOut := s.rspOut ++ [word s.t.toNat] })

/-- 43_traceback.md R127 and R128, `TB.STEP`: Sequence outside phase TB; otherwise, with p = P[K,CUR], it writes
the bit CUR[1] to OUT[K-1], moves CUR to the origin 2*CUR[0] + p, counts K down, ends the walk when K comes to
0, and answers the bit and the new K. No other cell and no other register changes. The clauses at K = 0 and at
K > NMAX, which no run reaches, are the model's choice, not the rule's (log 6, DESIGN CHOICE): it completes, no OUT cell
is written, and at K = 0 the new K is any value, which DP and the answer follow. -/
def Obligations.TbStepWalksOneEdgeBack : Prop :=
  encode .tbStep = 0xD000 ∧
  ∀ (s : State), s.flt = false →
    (s.dp ≠ .tb → exec .tbStep s =
      .next { s with flt := true, cause := 4, rspOut := s.rspOut ++ [errWord 4] }) ∧
    (s.dp = .tb →
      ∃ t, exec .tbStep s = .next t ∧
        (1 ≤ s.k.toNat → t.k.toNat = s.k.toNat - 1) ∧
        (1 ≤ s.k.toNat → s.k.toNat ≤ s.cfg.nmax → t.outCell (s.k.toNat - 1) = s.cur.getLsbD 1) ∧
        t.cur = BitVec.ofNat 2 (2 * (s.cur.getLsbD 0).toNat + (s.pCell s.k.toNat s.cur).toNat) ∧
        t.dp = (if t.k = 0 then .done else .tb) ∧
        t.rspOut = s.rspOut ++ [word ((s.cur.getLsbD 1).toNat + 2 * t.k.toNat)] ∧
        t.t = s.t ∧ SameEncoder s t ∧ SameLatch s t ∧ SameRest s t ∧
        (∀ n q, t.dCell n q = s.dCell n q) ∧ (∀ n q, t.pCell n q = s.pCell n q) ∧
        ∀ i, i + 1 ≠ s.k.toNat ∨ s.cfg.nmax ≤ i → t.outCell i = s.outCell i)

/-- 43_traceback.md R130, `OUT.RD`: Sequence before the walk has finished, IndexRange for i >= T; otherwise it
answers OUT[i] and changes nothing. -/
def Obligations.OutRdAnswersTheDecodedBit : Prop :=
  (∀ i : BitVec 12, encode (.outRd i) = BitVec.ofNat 16 (0xE000 + i.toNat)) ∧
  ∀ (s : State) (i : BitVec 12), s.flt = false →
    (s.dp ≠ .done → exec (.outRd i) s =
      .next { s with flt := true, cause := 4, rspOut := s.rspOut ++ [errWord 4] }) ∧
    (s.dp = .done → s.t.toNat ≤ i.toNat → exec (.outRd i) s =
      .next { s with flt := true, cause := 7, rspOut := s.rspOut ++ [errWord 7] }) ∧
    (s.dp = .done → i.toNat < s.t.toNat → exec (.outRd i) s =
      .next { s with rspOut := s.rspOut ++ [word (s.outCell i.toNat).toNat] })

/-- 00_scope.md R16 where a command names a cell its table does not have: it completes, answers one word and writes no
table. What is read there is a free value (log 6). Only states that break the invariants of 10_state.md R49 do
this. -/
def Obligations.CellOutsideItsTableStopsNothing : Prop :=
  ∀ (s : State), s.flt = false →
    (∀ q, s.dp ≠ .idle → s.cfg.nmax < s.t.toNat →
      ∃ r, exec (.fmrRdm q) s = .next { s with rspOut := s.rspOut ++ [r] }) ∧
    (s.dp = .tb → s.k.toNat = 0 ∨ s.cfg.nmax < s.k.toNat →
      ∃ t r, exec .tbStep s = .next t ∧ t.rspOut = s.rspOut ++ [r] ∧ t.flt = false ∧ t.mem = s.mem) ∧
    (∀ i : BitVec 12, s.dp = .done → i.toNat < s.t.toNat → s.cfg.nmax ≤ i.toNat →
      ∃ r, exec (.outRd i) s = .next { s with rspOut := s.rspOut ++ [r] })

/-- 43_traceback.md R125: TBU commands write only DP, CUR, K and OUT and the fault latch, never T, D or P. -/
def Obligations.TracebackTouchesOnlyItsState : Prop :=
  ∀ (i : Instr) (s t : State), isTraceback i = true → exec i s = .next t →
    SameEncoder s t ∧ t.t = s.t ∧ SameRest s t ∧ t.mem.d = s.mem.d ∧ t.mem.p = s.mem.p ∧
    (∀ n q, t.dCell n q = s.dCell n q ∧ t.pCell n q = s.pCell n q) ∧
    (∀ j, j + 1 ≠ s.k.toNat → t.outCell j = s.outCell j)

/-- 20_memory.md R59: no read has a side effect. FMR.RDM, OUT.RD, CORE.STAT and MAP.TRI, when they complete,
leave everything but the response port as it was, so a second one answers the same. -/
def Obligations.ReadsChangeNothing : Prop :=
  ∀ (i : Instr) (s t : State),
    (i = .coreStat ∨ (∃ x, i = .mapTri x) ∨ (∃ q, i = .fmrRdm q) ∨ ∃ j, i = .outRd j) →
    exec i s = .next t → t.flt = s.flt →
    ∃ r, t = { s with rspOut := s.rspOut ++ [r] } ∧ exec i t = .next { s with rspOut := s.rspOut ++ [r] ++ [r] }

/-- 20_memory.md R67: an encoder command and a decoder command next to each other, neither of which faults, give
the same final state and the same two responses in either order. -/
def Obligations.EncoderAndDecoderCommandsCommute : Prop :=
  ∀ (a b : Instr) (s s1 s2 : State),
    (isEncoder a = true ∧ (isForward b = true ∨ isTraceback b = true)) ∨
      ((isForward a = true ∨ isTraceback a = true) ∧ isEncoder b = true) →
    exec a s = .next s1 → s1.flt = false → exec b s1 = .next s2 → s2.flt = false →
    ∃ ra rb t1 t2, exec b s = .next t1 ∧ exec a t1 = .next t2 ∧
      s1.rspOut = s.rspOut ++ [ra] ∧ s2.rspOut = s.rspOut ++ [ra, rb] ∧
      t1.rspOut = s.rspOut ++ [rb] ∧ t2.rspOut = s.rspOut ++ [rb, ra] ∧ corePart t2 = corePart s2

/-- 43_traceback.md R131: after the whole walk the current state is 0, whatever was received. -/
def Obligations.WalkEndsInStateZero : Prop :=
  ∀ ys : List (Triple Sym), walkEnd (codeAt (forwardRows initRow ys)) ys.length 0 = 0

/-- 43_traceback.md R133: whatever was received, the last decoded bit is 0 and, if N >= 2, so is the one before. -/
def Obligations.LastTwoDecodedBitsAreZero : Prop :=
  ∀ ys : List (Triple Sym), 1 ≤ ys.length →
    (decodeTriples ys).length = ys.length ∧
    (decodeTriples ys)[ys.length - 1]? = some false ∧
    (2 ≤ ys.length → (decodeTriples ys)[ys.length - 2]? = some false)

/-! ## Blocks -/

/-- 45_block_operations.md R141: ENCODE B, started with EP = 0 and FLT = 0 on a B in the domain of encode, completes
without fault, answers the triples of encode(B) and the final memory (B[N+1], B[N]), and touches no decoder
state. -/
def Obligations.EncodeSequenceAnswersTheCodeword : Prop :=
  ∀ (s : State) (B : List Bit) (rest : List Word16), s.flt = false → s.ep = 0 → encodeDomain B = true →
    s.cmdIn = (expandEncode B).map encode ++ rest →
    ∃ t, Sys2Proof.core.run (expandEncode B).length s = .next t ∧
      encodeBlock B = some (flattenTriples (encodeTriples B)) ∧
      t.rspOut = s.rspOut ++ [word 0, word 0] ++ (encodeTriples B).map (fun x => word (tripleNat x)) ++ [word t.m.toNat] ∧
      stateM1 t.m = B.reverse.getD 0 false ∧ stateM0 t.m = B.reverse.getD 1 false ∧
      t.ep = 0 ∧ t.ene = false ∧ t.cmdIn = rest ∧
      SameLatch s t ∧ SameDecoder s t ∧ t.mem = s.mem ∧ t.cfg = s.cfg ∧ t.resets = s.resets

/-- 45_block_operations.md R143: CHANNEL S, started with FLT = 0 in any phase, completes without fault and changes
nothing; its responses are the wire codes of the symbols of channel(S), triple by triple. -/
def Obligations.ChannelSequenceAnswersTheSymbols : Prop :=
  ∀ (s : State) (ts : List (Triple Bit)) (rest : List Word16), s.flt = false →
    s.cmdIn = (expandChannel ts).map encode ++ rest →
    ∃ ys : List (Triple Sym), channelBlock (flattenTriples ts) = flattenTriples ys ∧ ys.length = ts.length ∧
      Sys2Proof.core.run (expandChannel ts).length s = .next { s with
        cmdIn := rest, rspOut := s.rspOut ++ ys.map fun y => word (tripleNat (y.map Sym.code)) }

/-- 45_block_operations.md R145: DECODE Y, started with FLT = 0 in any decoder phase on 1 <= N <= NMAX triples,
completes without fault; its responses are 0, the step counts, N, the bits of the walk last first with K, and
decode(Y). -/
def Obligations.DecodeSequenceAnswersTheDecodedBits : Prop :=
  ∀ (s : State) (ys : List (Triple Sym)) (rest : List Word16), s.flt = false →
    1 ≤ ys.length → ys.length ≤ s.cfg.nmax → s.cmdIn = (expandDecode ys).map encode ++ rest →
    ∃ t, Sys2Proof.core.run (expandDecode ys).length s = .next t ∧
      decodeBlock s.cfg.nmax (flattenTriples ys) = some (decodeTriples ys) ∧
      t.rspOut = s.rspOut ++ [word 0] ++ (List.range ys.length).map (fun j => word (j + 1)) ++ [word ys.length]
        ++ (decodeTriples ys).zipIdx.reverse.map (fun x => word (x.1.toNat + 2 * x.2))
        ++ (decodeTriples ys).map (fun b => word b.toNat) ∧
      t.dp = .done ∧ t.t.toNat = ys.length ∧ t.cmdIn = rest ∧ SameEncoder s t ∧ SameLatch s t ∧
      t.cfg = s.cfg ∧ t.resets = s.resets

/-- 45_block_operations.md R148: decode(channel(encode(B))) is B without its pads, for every terminated B. -/
def Obligations.DecodingACodewordGivesTheMessage : Prop :=
  ∀ (nmax : Nat) (B : List Bit), encodeDomain B = true → B.length ≤ nmax + 2 → terminated B →
    ∃ S, encodeBlock B = some S ∧ decodeBlock nmax (channelBlock S) = some (B.drop 2)

/-- 45_block_operations.md R147, R148 on the machine: ROUNDTRIP B for a terminated B completes without fault and
its last N responses are the message bits. -/
def Obligations.RoundTripSequenceAnswersTheMessage : Prop :=
  ∀ (s : State) (B : List Bit) (rest : List Word16), s.flt = false → s.ep = 0 → encodeDomain B = true →
    B.length ≤ s.cfg.nmax + 2 → terminated B → s.cmdIn = (expandRoundTrip B).map encode ++ rest →
    ∃ t l, Sys2Proof.core.run (expandRoundTrip B).length s = .next t ∧
      t.rspOut = s.rspOut ++ l ++ (B.drop 2).map (fun b => word b.toNat) ∧
      l.length + (B.length - 2) = (expandRoundTrip B).length ∧
      t.flt = false ∧ t.dp = .done ∧ t.ep = 0 ∧ t.cmdIn = rest

/-- 45_block_operations.md R150: the all-zero message. -/
def Obligations.AllZeroMessageDecodesToZeros : Prop :=
  ∀ (N nmax : Nat), 1 ≤ N → N ≤ nmax →
    encodeBlock (List.replicate (N + 2) false) = some (List.replicate (3 * N) false) ∧
    channelBlock (List.replicate (3 * N) false) = List.replicate (3 * N) .plus ∧
    (∀ n, n ≤ N → (rowAfter (sentTriples (List.replicate N false)) n).get 0 = .val (3 * n)) ∧
    decodeBlock nmax (List.replicate (3 * N) .plus) = some (List.replicate N false)

/-- 45_block_operations.md R151: a single 1 with at least two zero message bits before and after it has the
codeword 111 100 110 among zeros and decodes exactly. -/
def Obligations.IsolatedImpulseDecodesExactly : Prop :=
  ∀ (a c nmax : Nat), 2 ≤ a → 2 ≤ c → a + 1 + c ≤ nmax →
    let msg := List.replicate a false ++ [true] ++ List.replicate c false
    encodeTriples (false :: false :: msg) =
      List.replicate a ⟨false, false, false⟩
        ++ [⟨true, true, true⟩, ⟨true, false, false⟩, ⟨true, true, false⟩]
        ++ List.replicate (c - 2) ⟨false, false, false⟩ ∧
    decodeBlock nmax (flattenTriples (sentTriples msg)) = some msg
end

