-- ==== Sys2Proof/Laws/Decode.lean ====
section
/-! SUPPORT. Laws of decoding: the fields of an assembled word, and that decoding agrees with the opcode map as
30_encoding.md R76 prints it. -/

namespace Sys2Proof

/-- No word belongs to two rows of the opcode map. -/
theorem opcodeTable_no_overlap :
    opcodeTable.Pairwise fun a b => a.pattern &&& b.mask ≠ b.pattern &&& a.mask := by decide

/-- Every command has its row. -/
theorem opcodeTable_mnemonics : opcodeTable.map OpRow.mnemonic = Mnemonic.all := by decide

theorem mnemonicOfOp_op (m : Mnemonic) : mnemonicOfOp m.op = some m := by cases m <;> rfl

theorem op_of_mnemonicOfOp {op : BitVec 4} {m : Mnemonic} (h : mnemonicOfOp op = some m) : m.op = op := by
  revert op m; decide

theorem opField_append (op : BitVec 4) (arg : BitVec 12) : opField (op ++ arg : BitVec (4 + 12)) = op := by
  apply BitVec.eq_of_getLsbD_eq
  intro j hj
  simp only [opField, BitVec.getLsbD_extractLsb', hj, decide_true, Bool.true_and]
  exact (BitVec.getLsbD_append (x := op) (y := arg) (i := 12 + j)).trans (by simp)

theorem argField_append (op : BitVec 4) (arg : BitVec 12) : argField (op ++ arg : BitVec (4 + 12)) = arg := by
  apply BitVec.eq_of_getLsbD_eq
  intro j hj
  simp only [argField, BitVec.getLsbD_extractLsb', hj, decide_true, Bool.true_and, Nat.zero_add]
  exact (BitVec.getLsbD_append (x := op) (y := arg) (i := j)).trans (by simp [hj])

/-- A word is its op and its operand field (30_encoding.md R71). -/
theorem fields_append (w : Word16) : (opField w ++ argField w : BitVec (4 + 12)) = w := by
  apply BitVec.eq_of_getLsbD_eq
  intro j hj
  simp only [opField, argField, BitVec.getLsbD_append, BitVec.getLsbD_extractLsb']
  split
  · simp [*]
  · have h4 : j - 12 < 4 := by omega
    have h : 12 + (j - 12) = j := by omega
    simp [h4, h]

theorem unpackTriple_packTriple (x : Triple Bit) : unpackTriple (packTriple x) = x := by
  obtain ⟨a, b, c⟩ := x
  revert a b c; decide

theorem packTriple_unpackTriple (f : BitVec 3) : packTriple (unpackTriple f) = f := by
  revert f; decide

theorem ofCode_code (v : Sym) : Sym.ofCode v.code = v := by cases v <;> rfl

theorem code_ofCode (b : Bit) : (Sym.ofCode b).code = b := by cases b <;> rfl

end Sys2Proof
end

