-- ==== Sys2Proof/Laws/State.lean ====
section
/-! SUPPORT. What each update of State does to each field. -/

namespace Sys2Proof.Machine

section
variable (s : State)

@[simp] theorem State.emit_m (r : Word32) : (s.emit r).m = s.m := rfl
@[simp] theorem State.emit_ep (r : Word32) : (s.emit r).ep = s.ep := rfl
@[simp] theorem State.emit_ene (r : Word32) : (s.emit r).ene = s.ene := rfl
@[simp] theorem State.emit_t (r : Word32) : (s.emit r).t = s.t := rfl
@[simp] theorem State.emit_dp (r : Word32) : (s.emit r).dp = s.dp := rfl
@[simp] theorem State.emit_cur (r : Word32) : (s.emit r).cur = s.cur := rfl
@[simp] theorem State.emit_k (r : Word32) : (s.emit r).k = s.k := rfl
@[simp] theorem State.emit_flt (r : Word32) : (s.emit r).flt = s.flt := rfl
@[simp] theorem State.emit_cause (r : Word32) : (s.emit r).cause = s.cause := rfl
@[simp] theorem State.emit_mem (r : Word32) : (s.emit r).mem = s.mem := rfl
@[simp] theorem State.emit_cmdIn (r : Word32) : (s.emit r).cmdIn = s.cmdIn := rfl
@[simp] theorem State.emit_rspOut (r : Word32) : (s.emit r).rspOut = s.rspOut ++ [r] := rfl
@[simp] theorem State.emit_resets (r : Word32) : (s.emit r).resets = s.resets := rfl
@[simp] theorem State.emit_cfg (r : Word32) : (s.emit r).cfg = s.cfg := rfl

@[simp] theorem State.latch_m (c : Cause) : (s.latch c).m = s.m := rfl
@[simp] theorem State.latch_ep (c : Cause) : (s.latch c).ep = s.ep := rfl
@[simp] theorem State.latch_ene (c : Cause) : (s.latch c).ene = s.ene := rfl
@[simp] theorem State.latch_t (c : Cause) : (s.latch c).t = s.t := rfl
@[simp] theorem State.latch_dp (c : Cause) : (s.latch c).dp = s.dp := rfl
@[simp] theorem State.latch_cur (c : Cause) : (s.latch c).cur = s.cur := rfl
@[simp] theorem State.latch_k (c : Cause) : (s.latch c).k = s.k := rfl
@[simp] theorem State.latch_flt (c : Cause) : (s.latch c).flt = true := rfl
@[simp] theorem State.latch_cause (c : Cause) : (s.latch c).cause = c.code := rfl
@[simp] theorem State.latch_mem (c : Cause) : (s.latch c).mem = s.mem := rfl
@[simp] theorem State.latch_cmdIn (c : Cause) : (s.latch c).cmdIn = s.cmdIn := rfl
@[simp] theorem State.latch_rspOut (c : Cause) : (s.latch c).rspOut = s.rspOut := rfl
@[simp] theorem State.latch_resets (c : Cause) : (s.latch c).resets = s.resets := rfl
@[simp] theorem State.latch_cfg (c : Cause) : (s.latch c).cfg = s.cfg := rfl

@[simp] theorem State.shiftIn_m (b : Bit) : (s.shiftIn b).m = (BitVec.ofBool b ++ BitVec.ofBool (stateM1 s.m) : BitVec (1 + 1)) := rfl
@[simp] theorem State.shiftIn_ep (b : Bit) : (s.shiftIn b).ep = s.ep := rfl
@[simp] theorem State.shiftIn_ene (b : Bit) : (s.shiftIn b).ene = s.ene := rfl
@[simp] theorem State.shiftIn_t (b : Bit) : (s.shiftIn b).t = s.t := rfl
@[simp] theorem State.shiftIn_dp (b : Bit) : (s.shiftIn b).dp = s.dp := rfl
@[simp] theorem State.shiftIn_cur (b : Bit) : (s.shiftIn b).cur = s.cur := rfl
@[simp] theorem State.shiftIn_k (b : Bit) : (s.shiftIn b).k = s.k := rfl
@[simp] theorem State.shiftIn_flt (b : Bit) : (s.shiftIn b).flt = s.flt := rfl
@[simp] theorem State.shiftIn_cause (b : Bit) : (s.shiftIn b).cause = s.cause := rfl
@[simp] theorem State.shiftIn_mem (b : Bit) : (s.shiftIn b).mem = s.mem := rfl
@[simp] theorem State.shiftIn_cmdIn (b : Bit) : (s.shiftIn b).cmdIn = s.cmdIn := rfl
@[simp] theorem State.shiftIn_rspOut (b : Bit) : (s.shiftIn b).rspOut = s.rspOut := rfl
@[simp] theorem State.shiftIn_resets (b : Bit) : (s.shiftIn b).resets = s.resets := rfl
@[simp] theorem State.shiftIn_cfg (b : Bit) : (s.shiftIn b).cfg = s.cfg := rfl

@[simp] theorem State.setEp_m (e : BitVec 2) : (s.setEp e).m = s.m := rfl
@[simp] theorem State.setEp_ep (e : BitVec 2) : (s.setEp e).ep = e := rfl
@[simp] theorem State.setEp_ene (e : BitVec 2) : (s.setEp e).ene = s.ene := rfl
@[simp] theorem State.setEp_t (e : BitVec 2) : (s.setEp e).t = s.t := rfl
@[simp] theorem State.setEp_dp (e : BitVec 2) : (s.setEp e).dp = s.dp := rfl
@[simp] theorem State.setEp_cur (e : BitVec 2) : (s.setEp e).cur = s.cur := rfl
@[simp] theorem State.setEp_k (e : BitVec 2) : (s.setEp e).k = s.k := rfl
@[simp] theorem State.setEp_flt (e : BitVec 2) : (s.setEp e).flt = s.flt := rfl
@[simp] theorem State.setEp_cause (e : BitVec 2) : (s.setEp e).cause = s.cause := rfl
@[simp] theorem State.setEp_mem (e : BitVec 2) : (s.setEp e).mem = s.mem := rfl
@[simp] theorem State.setEp_cmdIn (e : BitVec 2) : (s.setEp e).cmdIn = s.cmdIn := rfl
@[simp] theorem State.setEp_rspOut (e : BitVec 2) : (s.setEp e).rspOut = s.rspOut := rfl
@[simp] theorem State.setEp_resets (e : BitVec 2) : (s.setEp e).resets = s.resets := rfl
@[simp] theorem State.setEp_cfg (e : BitVec 2) : (s.setEp e).cfg = s.cfg := rfl

@[simp] theorem State.setEne_m : (s.setEne).m = s.m := rfl
@[simp] theorem State.setEne_ep : (s.setEne).ep = s.ep := rfl
@[simp] theorem State.setEne_ene : (s.setEne).ene = true := rfl
@[simp] theorem State.setEne_t : (s.setEne).t = s.t := rfl
@[simp] theorem State.setEne_dp : (s.setEne).dp = s.dp := rfl
@[simp] theorem State.setEne_cur : (s.setEne).cur = s.cur := rfl
@[simp] theorem State.setEne_k : (s.setEne).k = s.k := rfl
@[simp] theorem State.setEne_flt : (s.setEne).flt = s.flt := rfl
@[simp] theorem State.setEne_cause : (s.setEne).cause = s.cause := rfl
@[simp] theorem State.setEne_mem : (s.setEne).mem = s.mem := rfl
@[simp] theorem State.setEne_cmdIn : (s.setEne).cmdIn = s.cmdIn := rfl
@[simp] theorem State.setEne_rspOut : (s.setEne).rspOut = s.rspOut := rfl
@[simp] theorem State.setEne_resets : (s.setEne).resets = s.resets := rfl
@[simp] theorem State.setEne_cfg : (s.setEne).cfg = s.cfg := rfl

@[simp] theorem State.clearEne_m : (s.clearEne).m = s.m := rfl
@[simp] theorem State.clearEne_ep : (s.clearEne).ep = s.ep := rfl
@[simp] theorem State.clearEne_ene : (s.clearEne).ene = false := rfl
@[simp] theorem State.clearEne_t : (s.clearEne).t = s.t := rfl
@[simp] theorem State.clearEne_dp : (s.clearEne).dp = s.dp := rfl
@[simp] theorem State.clearEne_cur : (s.clearEne).cur = s.cur := rfl
@[simp] theorem State.clearEne_k : (s.clearEne).k = s.k := rfl
@[simp] theorem State.clearEne_flt : (s.clearEne).flt = s.flt := rfl
@[simp] theorem State.clearEne_cause : (s.clearEne).cause = s.cause := rfl
@[simp] theorem State.clearEne_mem : (s.clearEne).mem = s.mem := rfl
@[simp] theorem State.clearEne_cmdIn : (s.clearEne).cmdIn = s.cmdIn := rfl
@[simp] theorem State.clearEne_rspOut : (s.clearEne).rspOut = s.rspOut := rfl
@[simp] theorem State.clearEne_resets : (s.clearEne).resets = s.resets := rfl
@[simp] theorem State.clearEne_cfg : (s.clearEne).cfg = s.cfg := rfl

@[simp] theorem State.setT_m (n : Count) : (s.setT n).m = s.m := rfl
@[simp] theorem State.setT_ep (n : Count) : (s.setT n).ep = s.ep := rfl
@[simp] theorem State.setT_ene (n : Count) : (s.setT n).ene = s.ene := rfl
@[simp] theorem State.setT_t (n : Count) : (s.setT n).t = n := rfl
@[simp] theorem State.setT_dp (n : Count) : (s.setT n).dp = s.dp := rfl
@[simp] theorem State.setT_cur (n : Count) : (s.setT n).cur = s.cur := rfl
@[simp] theorem State.setT_k (n : Count) : (s.setT n).k = s.k := rfl
@[simp] theorem State.setT_flt (n : Count) : (s.setT n).flt = s.flt := rfl
@[simp] theorem State.setT_cause (n : Count) : (s.setT n).cause = s.cause := rfl
@[simp] theorem State.setT_mem (n : Count) : (s.setT n).mem = s.mem := rfl
@[simp] theorem State.setT_cmdIn (n : Count) : (s.setT n).cmdIn = s.cmdIn := rfl
@[simp] theorem State.setT_rspOut (n : Count) : (s.setT n).rspOut = s.rspOut := rfl
@[simp] theorem State.setT_resets (n : Count) : (s.setT n).resets = s.resets := rfl
@[simp] theorem State.setT_cfg (n : Count) : (s.setT n).cfg = s.cfg := rfl

@[simp] theorem State.setDp_m (p : Phase) : (s.setDp p).m = s.m := rfl
@[simp] theorem State.setDp_ep (p : Phase) : (s.setDp p).ep = s.ep := rfl
@[simp] theorem State.setDp_ene (p : Phase) : (s.setDp p).ene = s.ene := rfl
@[simp] theorem State.setDp_t (p : Phase) : (s.setDp p).t = s.t := rfl
@[simp] theorem State.setDp_dp (p : Phase) : (s.setDp p).dp = p := rfl
@[simp] theorem State.setDp_cur (p : Phase) : (s.setDp p).cur = s.cur := rfl
@[simp] theorem State.setDp_k (p : Phase) : (s.setDp p).k = s.k := rfl
@[simp] theorem State.setDp_flt (p : Phase) : (s.setDp p).flt = s.flt := rfl
@[simp] theorem State.setDp_cause (p : Phase) : (s.setDp p).cause = s.cause := rfl
@[simp] theorem State.setDp_mem (p : Phase) : (s.setDp p).mem = s.mem := rfl
@[simp] theorem State.setDp_cmdIn (p : Phase) : (s.setDp p).cmdIn = s.cmdIn := rfl
@[simp] theorem State.setDp_rspOut (p : Phase) : (s.setDp p).rspOut = s.rspOut := rfl
@[simp] theorem State.setDp_resets (p : Phase) : (s.setDp p).resets = s.resets := rfl
@[simp] theorem State.setDp_cfg (p : Phase) : (s.setDp p).cfg = s.cfg := rfl

@[simp] theorem State.setCur_m (q : StateNo) : (s.setCur q).m = s.m := rfl
@[simp] theorem State.setCur_ep (q : StateNo) : (s.setCur q).ep = s.ep := rfl
@[simp] theorem State.setCur_ene (q : StateNo) : (s.setCur q).ene = s.ene := rfl
@[simp] theorem State.setCur_t (q : StateNo) : (s.setCur q).t = s.t := rfl
@[simp] theorem State.setCur_dp (q : StateNo) : (s.setCur q).dp = s.dp := rfl
@[simp] theorem State.setCur_cur (q : StateNo) : (s.setCur q).cur = q := rfl
@[simp] theorem State.setCur_k (q : StateNo) : (s.setCur q).k = s.k := rfl
@[simp] theorem State.setCur_flt (q : StateNo) : (s.setCur q).flt = s.flt := rfl
@[simp] theorem State.setCur_cause (q : StateNo) : (s.setCur q).cause = s.cause := rfl
@[simp] theorem State.setCur_mem (q : StateNo) : (s.setCur q).mem = s.mem := rfl
@[simp] theorem State.setCur_cmdIn (q : StateNo) : (s.setCur q).cmdIn = s.cmdIn := rfl
@[simp] theorem State.setCur_rspOut (q : StateNo) : (s.setCur q).rspOut = s.rspOut := rfl
@[simp] theorem State.setCur_resets (q : StateNo) : (s.setCur q).resets = s.resets := rfl
@[simp] theorem State.setCur_cfg (q : StateNo) : (s.setCur q).cfg = s.cfg := rfl

@[simp] theorem State.setK_m (n : Count) : (s.setK n).m = s.m := rfl
@[simp] theorem State.setK_ep (n : Count) : (s.setK n).ep = s.ep := rfl
@[simp] theorem State.setK_ene (n : Count) : (s.setK n).ene = s.ene := rfl
@[simp] theorem State.setK_t (n : Count) : (s.setK n).t = s.t := rfl
@[simp] theorem State.setK_dp (n : Count) : (s.setK n).dp = s.dp := rfl
@[simp] theorem State.setK_cur (n : Count) : (s.setK n).cur = s.cur := rfl
@[simp] theorem State.setK_k (n : Count) : (s.setK n).k = n := rfl
@[simp] theorem State.setK_flt (n : Count) : (s.setK n).flt = s.flt := rfl
@[simp] theorem State.setK_cause (n : Count) : (s.setK n).cause = s.cause := rfl
@[simp] theorem State.setK_mem (n : Count) : (s.setK n).mem = s.mem := rfl
@[simp] theorem State.setK_cmdIn (n : Count) : (s.setK n).cmdIn = s.cmdIn := rfl
@[simp] theorem State.setK_rspOut (n : Count) : (s.setK n).rspOut = s.rspOut := rfl
@[simp] theorem State.setK_resets (n : Count) : (s.setK n).resets = s.resets := rfl
@[simp] theorem State.setK_cfg (n : Count) : (s.setK n).cfg = s.cfg := rfl

@[simp] theorem State.writeDRow_m (n : Nat) (r : Row Metric) : (s.writeDRow n r).m = s.m := rfl
@[simp] theorem State.writeDRow_ep (n : Nat) (r : Row Metric) : (s.writeDRow n r).ep = s.ep := rfl
@[simp] theorem State.writeDRow_ene (n : Nat) (r : Row Metric) : (s.writeDRow n r).ene = s.ene := rfl
@[simp] theorem State.writeDRow_t (n : Nat) (r : Row Metric) : (s.writeDRow n r).t = s.t := rfl
@[simp] theorem State.writeDRow_dp (n : Nat) (r : Row Metric) : (s.writeDRow n r).dp = s.dp := rfl
@[simp] theorem State.writeDRow_cur (n : Nat) (r : Row Metric) : (s.writeDRow n r).cur = s.cur := rfl
@[simp] theorem State.writeDRow_k (n : Nat) (r : Row Metric) : (s.writeDRow n r).k = s.k := rfl
@[simp] theorem State.writeDRow_flt (n : Nat) (r : Row Metric) : (s.writeDRow n r).flt = s.flt := rfl
@[simp] theorem State.writeDRow_cause (n : Nat) (r : Row Metric) : (s.writeDRow n r).cause = s.cause := rfl
@[simp] theorem State.writeDRow_mem (n : Nat) (r : Row Metric) : (s.writeDRow n r).mem = { s.mem with d := writeRow s.mem.d n r } := rfl
@[simp] theorem State.writeDRow_cmdIn (n : Nat) (r : Row Metric) : (s.writeDRow n r).cmdIn = s.cmdIn := rfl
@[simp] theorem State.writeDRow_rspOut (n : Nat) (r : Row Metric) : (s.writeDRow n r).rspOut = s.rspOut := rfl
@[simp] theorem State.writeDRow_resets (n : Nat) (r : Row Metric) : (s.writeDRow n r).resets = s.resets := rfl
@[simp] theorem State.writeDRow_cfg (n : Nat) (r : Row Metric) : (s.writeDRow n r).cfg = s.cfg := rfl

@[simp] theorem State.writePRow_m (n : Nat) (r : Row Bit) : (s.writePRow n r).m = s.m := rfl
@[simp] theorem State.writePRow_ep (n : Nat) (r : Row Bit) : (s.writePRow n r).ep = s.ep := rfl
@[simp] theorem State.writePRow_ene (n : Nat) (r : Row Bit) : (s.writePRow n r).ene = s.ene := rfl
@[simp] theorem State.writePRow_t (n : Nat) (r : Row Bit) : (s.writePRow n r).t = s.t := rfl
@[simp] theorem State.writePRow_dp (n : Nat) (r : Row Bit) : (s.writePRow n r).dp = s.dp := rfl
@[simp] theorem State.writePRow_cur (n : Nat) (r : Row Bit) : (s.writePRow n r).cur = s.cur := rfl
@[simp] theorem State.writePRow_k (n : Nat) (r : Row Bit) : (s.writePRow n r).k = s.k := rfl
@[simp] theorem State.writePRow_flt (n : Nat) (r : Row Bit) : (s.writePRow n r).flt = s.flt := rfl
@[simp] theorem State.writePRow_cause (n : Nat) (r : Row Bit) : (s.writePRow n r).cause = s.cause := rfl
@[simp] theorem State.writePRow_mem (n : Nat) (r : Row Bit) : (s.writePRow n r).mem = { s.mem with p := writeRow s.mem.p n r } := rfl
@[simp] theorem State.writePRow_cmdIn (n : Nat) (r : Row Bit) : (s.writePRow n r).cmdIn = s.cmdIn := rfl
@[simp] theorem State.writePRow_rspOut (n : Nat) (r : Row Bit) : (s.writePRow n r).rspOut = s.rspOut := rfl
@[simp] theorem State.writePRow_resets (n : Nat) (r : Row Bit) : (s.writePRow n r).resets = s.resets := rfl
@[simp] theorem State.writePRow_cfg (n : Nat) (r : Row Bit) : (s.writePRow n r).cfg = s.cfg := rfl

@[simp] theorem State.writeOut_m (n : Nat) (b : Bit) : (s.writeOut n b).m = s.m := rfl
@[simp] theorem State.writeOut_ep (n : Nat) (b : Bit) : (s.writeOut n b).ep = s.ep := rfl
@[simp] theorem State.writeOut_ene (n : Nat) (b : Bit) : (s.writeOut n b).ene = s.ene := rfl
@[simp] theorem State.writeOut_t (n : Nat) (b : Bit) : (s.writeOut n b).t = s.t := rfl
@[simp] theorem State.writeOut_dp (n : Nat) (b : Bit) : (s.writeOut n b).dp = s.dp := rfl
@[simp] theorem State.writeOut_cur (n : Nat) (b : Bit) : (s.writeOut n b).cur = s.cur := rfl
@[simp] theorem State.writeOut_k (n : Nat) (b : Bit) : (s.writeOut n b).k = s.k := rfl
@[simp] theorem State.writeOut_flt (n : Nat) (b : Bit) : (s.writeOut n b).flt = s.flt := rfl
@[simp] theorem State.writeOut_cause (n : Nat) (b : Bit) : (s.writeOut n b).cause = s.cause := rfl
@[simp] theorem State.writeOut_mem (n : Nat) (b : Bit) : (s.writeOut n b).mem =
    { s.mem with out := if 1 ≤ n ∧ n ≤ s.cfg.nmax then writeCell s.mem.out (n - 1) b else s.mem.out } := rfl
@[simp] theorem State.writeOut_cmdIn (n : Nat) (b : Bit) : (s.writeOut n b).cmdIn = s.cmdIn := rfl
@[simp] theorem State.writeOut_rspOut (n : Nat) (b : Bit) : (s.writeOut n b).rspOut = s.rspOut := rfl
@[simp] theorem State.writeOut_resets (n : Nat) (b : Bit) : (s.writeOut n b).resets = s.resets := rfl
@[simp] theorem State.writeOut_cfg (n : Nat) (b : Bit) : (s.writeOut n b).cfg = s.cfg := rfl

@[simp] theorem State.resetRegs_m (tb : Tables) : (s.resetRegs tb).m = 0 := rfl
@[simp] theorem State.resetRegs_ep (tb : Tables) : (s.resetRegs tb).ep = 0 := rfl
@[simp] theorem State.resetRegs_ene (tb : Tables) : (s.resetRegs tb).ene = false := rfl
@[simp] theorem State.resetRegs_t (tb : Tables) : (s.resetRegs tb).t = 0 := rfl
@[simp] theorem State.resetRegs_dp (tb : Tables) : (s.resetRegs tb).dp = .idle := rfl
@[simp] theorem State.resetRegs_cur (tb : Tables) : (s.resetRegs tb).cur = 0 := rfl
@[simp] theorem State.resetRegs_k (tb : Tables) : (s.resetRegs tb).k = 0 := rfl
@[simp] theorem State.resetRegs_flt (tb : Tables) : (s.resetRegs tb).flt = !tb.ok := rfl
@[simp] theorem State.resetRegs_cause (tb : Tables) : (s.resetRegs tb).cause = if tb.ok then 0 else Cause.code .tableInconsistent := rfl
@[simp] theorem State.resetRegs_mem (tb : Tables) : (s.resetRegs tb).mem = Memory.unspecified := rfl
@[simp] theorem State.resetRegs_cmdIn (tb : Tables) : (s.resetRegs tb).cmdIn = s.cmdIn := rfl
@[simp] theorem State.resetRegs_rspOut (tb : Tables) : (s.resetRegs tb).rspOut = s.rspOut := rfl
@[simp] theorem State.resetRegs_resets (tb : Tables) : (s.resetRegs tb).resets = s.resets + 1 := rfl
@[simp] theorem State.resetRegs_cfg (tb : Tables) : (s.resetRegs tb).cfg = s.cfg := rfl

@[simp] theorem presentFirst_m (w : Word16) : (presentFirst s w).m = s.m := rfl
@[simp] theorem presentFirst_ep (w : Word16) : (presentFirst s w).ep = s.ep := rfl
@[simp] theorem presentFirst_ene (w : Word16) : (presentFirst s w).ene = s.ene := rfl
@[simp] theorem presentFirst_t (w : Word16) : (presentFirst s w).t = s.t := rfl
@[simp] theorem presentFirst_dp (w : Word16) : (presentFirst s w).dp = s.dp := rfl
@[simp] theorem presentFirst_cur (w : Word16) : (presentFirst s w).cur = s.cur := rfl
@[simp] theorem presentFirst_k (w : Word16) : (presentFirst s w).k = s.k := rfl
@[simp] theorem presentFirst_flt (w : Word16) : (presentFirst s w).flt = s.flt := rfl
@[simp] theorem presentFirst_cause (w : Word16) : (presentFirst s w).cause = s.cause := rfl
@[simp] theorem presentFirst_mem (w : Word16) : (presentFirst s w).mem = s.mem := rfl
@[simp] theorem presentFirst_cmdIn (w : Word16) : (presentFirst s w).cmdIn = w :: s.cmdIn := rfl
@[simp] theorem presentFirst_rspOut (w : Word16) : (presentFirst s w).rspOut = s.rspOut := rfl
@[simp] theorem presentFirst_resets (w : Word16) : (presentFirst s w).resets = s.resets := rfl
@[simp] theorem presentFirst_cfg (w : Word16) : (presentFirst s w).cfg = s.cfg := rfl

@[simp] theorem presentLast_m (ws : List Word16) : (presentLast s ws).m = s.m := rfl
@[simp] theorem presentLast_ep (ws : List Word16) : (presentLast s ws).ep = s.ep := rfl
@[simp] theorem presentLast_ene (ws : List Word16) : (presentLast s ws).ene = s.ene := rfl
@[simp] theorem presentLast_t (ws : List Word16) : (presentLast s ws).t = s.t := rfl
@[simp] theorem presentLast_dp (ws : List Word16) : (presentLast s ws).dp = s.dp := rfl
@[simp] theorem presentLast_cur (ws : List Word16) : (presentLast s ws).cur = s.cur := rfl
@[simp] theorem presentLast_k (ws : List Word16) : (presentLast s ws).k = s.k := rfl
@[simp] theorem presentLast_flt (ws : List Word16) : (presentLast s ws).flt = s.flt := rfl
@[simp] theorem presentLast_cause (ws : List Word16) : (presentLast s ws).cause = s.cause := rfl
@[simp] theorem presentLast_mem (ws : List Word16) : (presentLast s ws).mem = s.mem := rfl
@[simp] theorem presentLast_cmdIn (ws : List Word16) : (presentLast s ws).cmdIn = s.cmdIn ++ ws := rfl
@[simp] theorem presentLast_rspOut (ws : List Word16) : (presentLast s ws).rspOut = s.rspOut := rfl
@[simp] theorem presentLast_resets (ws : List Word16) : (presentLast s ws).resets = s.resets := rfl
@[simp] theorem presentLast_cfg (ws : List Word16) : (presentLast s ws).cfg = s.cfg := rfl

@[simp] theorem State.emit_dCell (r : Word32) : (s.emit r).dCell = s.dCell := rfl
@[simp] theorem State.emit_pCell (r : Word32) : (s.emit r).pCell = s.pCell := rfl
@[simp] theorem State.emit_outCell (r : Word32) : (s.emit r).outCell = s.outCell := rfl
@[simp] theorem State.emit_dRow (r : Word32) : (s.emit r).dRow = s.dRow := rfl

@[simp] theorem State.latch_dCell (c : Cause) : (s.latch c).dCell = s.dCell := rfl
@[simp] theorem State.latch_pCell (c : Cause) : (s.latch c).pCell = s.pCell := rfl
@[simp] theorem State.latch_outCell (c : Cause) : (s.latch c).outCell = s.outCell := rfl
@[simp] theorem State.latch_dRow (c : Cause) : (s.latch c).dRow = s.dRow := rfl

@[simp] theorem State.shiftIn_dCell (b : Bit) : (s.shiftIn b).dCell = s.dCell := rfl
@[simp] theorem State.shiftIn_pCell (b : Bit) : (s.shiftIn b).pCell = s.pCell := rfl
@[simp] theorem State.shiftIn_outCell (b : Bit) : (s.shiftIn b).outCell = s.outCell := rfl
@[simp] theorem State.shiftIn_dRow (b : Bit) : (s.shiftIn b).dRow = s.dRow := rfl

@[simp] theorem State.setEp_dCell (e : BitVec 2) : (s.setEp e).dCell = s.dCell := rfl
@[simp] theorem State.setEp_pCell (e : BitVec 2) : (s.setEp e).pCell = s.pCell := rfl
@[simp] theorem State.setEp_outCell (e : BitVec 2) : (s.setEp e).outCell = s.outCell := rfl
@[simp] theorem State.setEp_dRow (e : BitVec 2) : (s.setEp e).dRow = s.dRow := rfl

@[simp] theorem State.setEne_dCell : (s.setEne).dCell = s.dCell := rfl
@[simp] theorem State.setEne_pCell : (s.setEne).pCell = s.pCell := rfl
@[simp] theorem State.setEne_outCell : (s.setEne).outCell = s.outCell := rfl
@[simp] theorem State.setEne_dRow : (s.setEne).dRow = s.dRow := rfl

@[simp] theorem State.clearEne_dCell : (s.clearEne).dCell = s.dCell := rfl
@[simp] theorem State.clearEne_pCell : (s.clearEne).pCell = s.pCell := rfl
@[simp] theorem State.clearEne_outCell : (s.clearEne).outCell = s.outCell := rfl
@[simp] theorem State.clearEne_dRow : (s.clearEne).dRow = s.dRow := rfl

@[simp] theorem State.setT_dCell (n : Count) : (s.setT n).dCell = s.dCell := rfl
@[simp] theorem State.setT_pCell (n : Count) : (s.setT n).pCell = s.pCell := rfl
@[simp] theorem State.setT_outCell (n : Count) : (s.setT n).outCell = s.outCell := rfl
@[simp] theorem State.setT_dRow (n : Count) : (s.setT n).dRow = s.dRow := rfl

@[simp] theorem State.setDp_dCell (p : Phase) : (s.setDp p).dCell = s.dCell := rfl
@[simp] theorem State.setDp_pCell (p : Phase) : (s.setDp p).pCell = s.pCell := rfl
@[simp] theorem State.setDp_outCell (p : Phase) : (s.setDp p).outCell = s.outCell := rfl
@[simp] theorem State.setDp_dRow (p : Phase) : (s.setDp p).dRow = s.dRow := rfl

@[simp] theorem State.setCur_dCell (q : StateNo) : (s.setCur q).dCell = s.dCell := rfl
@[simp] theorem State.setCur_pCell (q : StateNo) : (s.setCur q).pCell = s.pCell := rfl
@[simp] theorem State.setCur_outCell (q : StateNo) : (s.setCur q).outCell = s.outCell := rfl
@[simp] theorem State.setCur_dRow (q : StateNo) : (s.setCur q).dRow = s.dRow := rfl

@[simp] theorem State.setK_dCell (n : Count) : (s.setK n).dCell = s.dCell := rfl
@[simp] theorem State.setK_pCell (n : Count) : (s.setK n).pCell = s.pCell := rfl
@[simp] theorem State.setK_outCell (n : Count) : (s.setK n).outCell = s.outCell := rfl
@[simp] theorem State.setK_dRow (n : Count) : (s.setK n).dRow = s.dRow := rfl

@[simp] theorem State.writeDRow_pCell (n : Nat) (r : Row Metric) : (s.writeDRow n r).pCell = s.pCell := rfl
@[simp] theorem State.writeDRow_outCell (n : Nat) (r : Row Metric) : (s.writeDRow n r).outCell = s.outCell := rfl
@[simp] theorem State.writePRow_dCell (n : Nat) (r : Row Bit) : (s.writePRow n r).dCell = s.dCell := rfl
@[simp] theorem State.writePRow_outCell (n : Nat) (r : Row Bit) : (s.writePRow n r).outCell = s.outCell := rfl
@[simp] theorem State.writePRow_dRow (n : Nat) (r : Row Bit) : (s.writePRow n r).dRow = s.dRow := rfl
@[simp] theorem State.writeOut_dCell (n : Nat) (b : Bit) : (s.writeOut n b).dCell = s.dCell := rfl
@[simp] theorem State.writeOut_pCell (n : Nat) (b : Bit) : (s.writeOut n b).pCell = s.pCell := rfl
@[simp] theorem State.writeOut_dRow (n : Nat) (b : Bit) : (s.writeOut n b).dRow = s.dRow := rfl

end

end Sys2Proof.Machine
end

