-- ==== Sys2Proof/Laws/Table.lean ====
section
/-! SUPPORT. The laws of the tables: a read after a write, what a write leaves alone, and that every write
keeps the canonical form. -/

namespace Sys2Proof.Machine

section
variable {α : Type}

@[simp] theorem readCell_nil (a : Nat) : readCell ([] : List (Nat × α)) a = none := rfl

theorem readCell_writeCell (cells : List (Nat × α)) (a b : Nat) (v : α) :
    readCell (writeCell cells a v) b = if b = a then some v else readCell cells b := by
  induction cells with
  | nil => by_cases h : a = b <;> simp [writeCell, readCell, h, eq_comm]
  | cons c rest ih =>
    simp only [writeCell]
    split
    · by_cases h : a = b <;> simp [readCell, h, eq_comm]
    · split
      · by_cases h : a = b <;> simp_all [readCell, eq_comm]
      · by_cases h : c.1 = b
        · have : b ≠ a := by rintro rfl; contradiction
          simp [readCell, h, this]
        · simp [readCell, h, ih]

@[simp] theorem readCell_writeCell_same (cells : List (Nat × α)) (a : Nat) (v : α) :
    readCell (writeCell cells a v) a = some v := by simp [readCell_writeCell]

theorem readCell_writeCell_other (cells : List (Nat × α)) {a b : Nat} (h : b ≠ a) (v : α) :
    readCell (writeCell cells a v) b = readCell cells b := by simp [readCell_writeCell, h]

theorem mem_writeCell {cells : List (Nat × α)} {a : Nat} {v : α} {c : Nat × α} (h : c ∈ writeCell cells a v) :
    c = (a, v) ∨ c ∈ cells := by
  induction cells with
  | nil => simpa [writeCell] using h
  | cons d rest ih =>
    simp only [writeCell] at h
    split at h
    · simpa using h
    · split at h
      · rcases List.mem_cons.mp h with h | h
        · exact .inl h
        · exact .inr (List.mem_cons_of_mem _ h)
      · rcases List.mem_cons.mp h with h | h
        · exact .inr (by simp [h])
        · exact (ih h).imp id (List.mem_cons_of_mem _)

theorem writeCell_rising {cells : List (Nat × α)} (a : Nat) (v : α)
    (h : (cells.map Prod.fst).Pairwise (· < ·)) : ((writeCell cells a v).map Prod.fst).Pairwise (· < ·) := by
  induction cells with
  | nil => simp [writeCell]
  | cons c rest ih =>
    rw [List.map_cons, List.pairwise_cons] at h
    simp only [writeCell]
    split
    · rename_i hlt
      simp only [List.map_cons, List.pairwise_cons, List.mem_cons, forall_eq_or_imp]
      exact ⟨⟨hlt, fun x hx => hlt.trans (h.1 x hx)⟩, h⟩
    · split
      · rename_i heq
        subst heq
        simpa using h
      · rename_i hnlt hne
        rw [List.map_cons, List.pairwise_cons]
        refine ⟨fun x hx => ?_, ih h.2⟩
        obtain ⟨d, hd, rfl⟩ := List.mem_map.mp hx
        rcases mem_writeCell hd with rfl | hd
        · exact Nat.lt_of_le_of_ne (Nat.not_lt.mp hnlt) hne
        · exact h.1 _ (List.mem_map_of_mem hd)

/-- A write inside the table keeps the canonical form. -/
theorem canonical_writeCell {lo hi : Nat} {cells : List (Nat × α)} {a : Nat} (v : α)
    (h : canonical lo hi cells) (hlo : lo ≤ a) (hhi : a < hi) : canonical lo hi (writeCell cells a v) :=
  ⟨writeCell_rising a v h.1, fun c hc => by
    rcases mem_writeCell hc with rfl | hc
    · exact ⟨hlo, hhi⟩
    · exact h.2 c hc⟩

theorem canonical_nil (lo hi : Nat) : canonical lo hi ([] : List (Nat × α)) := by simp [canonical]

theorem stateNo_cases (q : StateNo) : q = 0 ∨ q = 1 ∨ q = 2 ∨ q = 3 := by
  revert q; decide

/-- Distinct cells have distinct addresses. -/
theorem cellAddr_inj {t t' : Nat} {q q' : StateNo} : cellAddr t q = cellAddr t' q' ↔ t = t' ∧ q = q' := by
  have hq := q.isLt
  have hq' := q'.isLt
  constructor
  · intro h
    simp only [cellAddr] at h
    exact ⟨by omega, BitVec.eq_of_toNat_eq (by omega)⟩
  · rintro ⟨rfl, rfl⟩; rfl

theorem Row.get_ofFn (f : StateNo → α) (q : StateNo) : (Row.ofFn f).get q = f q := by
  rcases stateNo_cases q with rfl | rfl | rfl | rfl <;> rfl

theorem Row.get_map {β : Type} (f : α → β) (r : Row α) (q : StateNo) : (r.map f).get q = f (r.get q) := by
  rcases stateNo_cases q with rfl | rfl | rfl | rfl <;> rfl

/-- Writing a row writes its four cells and no other. -/
theorem readCell_writeRow (cells : List (Nat × α)) (t t' : Nat) (r : Row α) (q : StateNo) :
    readCell (writeRow cells t r) (cellAddr t' q) =
      if t' = t then some (r.get q) else readCell cells (cellAddr t' q) := by
  simp only [writeRow, readCell_writeCell, cellAddr_inj]
  by_cases h : t' = t
  · rcases stateNo_cases q with rfl | rfl | rfl | rfl <;> simp [h, Row.get]
  · simp [h]

theorem canonical_writeRow {lo hi : Nat} {cells : List (Nat × α)} {t : Nat} (r : Row α)
    (h : canonical lo hi cells) (hlo : lo ≤ 4 * t) (hhi : 4 * t + 3 < hi) : canonical lo hi (writeRow cells t r) := by
  unfold writeRow
  refine canonical_writeCell _ (canonical_writeCell _ (canonical_writeCell _ (canonical_writeCell _ h ?_ ?_)
    ?_ ?_) ?_ ?_) ?_ ?_ <;> simp [cellAddr] <;> omega

end

/-! ## The cell reads of State -/

theorem State.dCell_writeDRow (s : State) (t t' : Nat) (r : Row Metric) (q : StateNo) :
    (s.writeDRow t r).dCell t' q = if t' = t then r.get q else s.dCell t' q := by
  simp only [State.dCell, State.writeDRow, readCell_writeRow]
  split <;> simp

theorem State.pCell_writePRow (s : State) (t t' : Nat) (r : Row Bit) (q : StateNo) :
    (s.writePRow t r).pCell t' q = if t' = t then r.get q else s.pCell t' q := by
  simp only [State.pCell, State.writePRow, readCell_writeRow]
  split <;> simp

theorem State.outCell_writeOut (s : State) (k j : Nat) (b : Bit) :
    (s.writeOut k b).outCell j = if j + 1 = k ∧ k ≤ s.cfg.nmax then b else s.outCell j := by
  simp only [State.outCell, State.writeOut]
  by_cases h : 1 ≤ k ∧ k ≤ s.cfg.nmax
  · rw [if_pos h, readCell_writeCell]
    by_cases hj : j = k - 1
    · rw [if_pos hj, if_pos (by omega), Option.getD_some]
    · rw [if_neg hj, if_neg (by omega)]
  · rw [if_neg h, if_neg (by omega)]

theorem State.dRow_get (s : State) (t : Nat) (q : StateNo) : (s.dRow t).get q = s.dCell t q :=
  Row.get_ofFn _ _

/-! ## The canonical form of the whole memory -/

theorem memory_unspecified_wf (n : Nat) : Memory.unspecified.wf n :=
  ⟨canonical_nil _ _, canonical_nil _ _, canonical_nil _ _⟩

theorem reset_memory_wf : State.reset.mem.wf State.reset.cfg.nmax := memory_unspecified_wf _

theorem wf_writeDRow {n t : Nat} {mem : Memory} (r : Row Metric) (h : mem.wf n) (ht : t ≤ n) :
    ({ mem with d := writeRow mem.d t r } : Memory).wf n :=
  ⟨canonical_writeRow r h.1 (by omega) (by omega), h.2.1, h.2.2⟩

theorem wf_writePRow {n t : Nat} {mem : Memory} (r : Row Bit) (h : mem.wf n) (h1 : 1 ≤ t) (ht : t ≤ n) :
    ({ mem with p := writeRow mem.p t r } : Memory).wf n :=
  ⟨h.1, canonical_writeRow r h.2.1 (by omega) (by omega), h.2.2⟩

/-- The write of the walk keeps the form whatever K is. -/
theorem State.writeOut_wf {s : State} {n : Nat} (k : Nat) (b : Bit) (h : s.mem.wf n) (hn : s.cfg.nmax = n) :
    (s.writeOut k b).mem.wf n := by
  refine ⟨h.1, h.2.1, ?_⟩
  show canonical 0 n (if 1 ≤ k ∧ k ≤ s.cfg.nmax then _ else _)
  split
  · exact canonical_writeCell b h.2.2 (by omega) (by omega)
  · exact h.2.2

end Sys2Proof.Machine
end

