-- ==== Sys2Proof/Laws/Ops.lean ====
section
/-! SUPPORT. What each shared operation can do, and what each command can do: one lemma each, which later
proofs cite instead of unfolding the operation. -/

namespace Sys2Proof.Machine

/-- The state after a fault with cause `c` has been taken (60_exceptions.md R168). -/
abbrev State.faulted (s : State) (c : Cause) : State := (s.latch c).emit (packResponse c.code false 0)

/-- The state after a command has been rejected (60_exceptions.md R169). -/
abbrev State.rejected (s : State) : State := s.emit (packResponse 15 false 0)

/-- The state after a command has completed with `data` (00_scope.md R13). -/
abbrev State.answered (s : State) (data : BitVec 16) : State := s.emit (packResponse 0 false data)

section
variable {s t : State} {k : Result} {c : Cause} {b : Bool}

theorem reject_next : reject s = .next t ↔ t = s.rejected :=
  ⟨fun h => by cases h; rfl, fun h => by rw [h]; rfl⟩

theorem whenRunning_next : whenRunning s k = .next t ↔
    (s.flt = true ∧ t = s.rejected) ∨ (s.flt = false ∧ k = .next t) := by
  unfold whenRunning
  cases s.flt <;> simp [reject_next]

theorem whenRunning_of_running (h : s.flt = false) : whenRunning s k = k := by simp [whenRunning, h]

theorem whenRunning_of_faulted (h : s.flt = true) : whenRunning s k = .next s.rejected := by
  simp only [whenRunning, h, if_true, reject_next]

theorem raiseFault_next : raiseFault c s = .next t ↔ t = s.faulted c :=
  ⟨fun h => by cases h; rfl, fun h => by rw [h]; rfl⟩

theorem require_next : require b c s k = .next t ↔ (b = false ∧ t = s.faulted c) ∨ (b = true ∧ k = .next t) := by
  unfold require
  cases b <;> simp [raiseFault_next]

theorem respond_next {d : BitVec 16} : respond d s = .next t ↔ t = s.answered d :=
  ⟨fun h => by cases h; rfl, fun h => by rw [h]; rfl⟩

theorem respondMetric_next {v : Metric} : respondMetric v s = .next t ↔
    (v = .unr ∧ t = s.emit (packResponse 0 true 0)) ∨ (∃ n, v = .val n ∧ t = s.answered (BitVec.ofInt 16 n)) := by
  cases v with
  | unr => simp [respondMetric, respondUnreachable, eq_comm]
  | val n => simp only [respondMetric, respond_next]; simp

theorem illegalWord_next : illegalWord s = .next t ↔
    (s.flt = true ∧ t = s.rejected) ∨ (s.flt = false ∧ t = s.faulted .illegalCommand) := by
  simp [illegalWord, whenRunning_next, raiseFault_next]

theorem trellisTables_ok : trellisTables.ok = true := by decide

theorem resetCore_next {tb : Tables} : resetCore tb s = .next t ↔
    (tb.ok = true ∧ t = (s.resetRegs tb).answered 0) ∨
    (tb.ok = false ∧ t = (s.resetRegs tb).emit (packResponse (Cause.code .tableInconsistent) false 0)) := by
  unfold resetCore
  cases tb.ok with
  | true => simp only [if_true, respond_next]; simp
  | false => simp [eq_comm]

/-! ## The commands -/

theorem execCoreRst_next : execCoreRst s = .next t ↔ t = (s.resetRegs trellisTables).answered 0 := by
  simp [execCoreRst, resetCore_next, trellisTables_ok]

theorem execCoreStat_next : execCoreStat s = .next t ↔ t = s.answered s.status := respond_next

theorem execEncPad_next {x : Bit} : execEncPad x s = .next t ↔
    (s.flt = true ∧ t = s.rejected) ∨
    (s.flt = false ∧ s.ep = 2 ∧ t = s.faulted .sequence) ∨
    (s.flt = false ∧ s.ep ≠ 2 ∧ x = true ∧ t = s.faulted .padNonZero) ∨
    (s.flt = false ∧ s.ep ≠ 2 ∧ x = false ∧ t = ((s.shiftIn x).setEp (s.ep + 1)).answered 0) := by
  simp only [execEncPad, whenRunning_next, require_next, respond_next]
  cases x <;> simp <;> tauto

theorem execEncBit_next {x : Bit} : execEncBit x s = .next t ↔
    (s.flt = true ∧ t = s.rejected) ∨
    (s.flt = false ∧ s.ep ≠ 2 ∧ t = s.faulted .sequence) ∨
    (s.flt = false ∧ s.ep = 2 ∧
      t = (s.shiftIn x).setEne.answered (tripleData (encOut x (stateM1 s.m) (stateM0 s.m)))) := by
  simp only [execEncBit, whenRunning_next, require_next, respond_next, decide_eq_true_eq, decide_eq_false_iff_not]
  tauto

theorem execEncEnd_next : execEncEnd s = .next t ↔
    (s.flt = true ∧ t = s.rejected) ∨
    (s.flt = false ∧ s.ene = false ∧ t = s.faulted .lengthZero) ∨
    (s.flt = false ∧ s.ene = true ∧ t = (s.setEp 0).clearEne.answered (stateData s.m)) := by
  simp only [execEncEnd, whenRunning_next, require_next, respond_next]
  tauto

theorem execMapTri_next {x : Triple Bit} : execMapTri x s = .next t ↔
    (s.flt = true ∧ t = s.rejected) ∨
    (s.flt = false ∧ t = s.answered (tripleData ((x.map symOfBit).map Sym.code))) := by
  simp only [execMapTri, whenRunning_next, respond_next]

theorem execFmrInit_next : execFmrInit s = .next t ↔
    (s.flt = true ∧ t = s.rejected) ∨
    (s.flt = false ∧ t = (((s.writeDRow 0 initRow).setT 0).setDp .fwd).answered 0) := by
  simp only [execFmrInit, whenRunning_next, respond_next]

/-- The state after a forward step, its response not yet given (42_forward_recursion.md R112). -/
abbrev State.forward (s : State) (y : Triple Sym) : State :=
  ((s.writeDRow (s.t.toNat + 1) ((forwardRow (s.dRow s.t.toNat) y).map Prod.fst)).writePRow
      (s.t.toNat + 1) ((forwardRow (s.dRow s.t.toNat) y).map Prod.snd)).setT (s.t + 1)

theorem execFmrStep_next {y : Triple Sym} : execFmrStep y s = .next t ↔
    (s.flt = true ∧ t = s.rejected) ∨
    (s.flt = false ∧ s.dp ≠ .fwd ∧ t = s.faulted .sequence) ∨
    (s.flt = false ∧ s.dp = .fwd ∧ s.cfg.nmax ≤ s.t.toNat ∧ t = s.faulted .capacity) ∨
    (s.flt = false ∧ s.dp = .fwd ∧ s.t.toNat < s.cfg.nmax ∧ t = (s.forward y).answered (countData (s.t + 1))) := by
  simp only [execFmrStep, whenRunning_next, require_next, respond_next, decide_eq_true_eq, decide_eq_false_iff_not,
    Nat.not_lt]
  tauto

theorem execFmrRdm_next {q : StateNo} : execFmrRdm q s = .next t ↔
    (s.flt = true ∧ t = s.rejected) ∨
    (s.flt = false ∧ s.dp = .idle ∧ t = s.faulted .sequence) ∨
    (s.flt = false ∧ s.dp ≠ .idle ∧ respondMetric (s.dCell s.t.toNat q) s = .next t) := by
  simp only [execFmrRdm, whenRunning_next, require_next, decide_eq_true_eq, decide_eq_false_iff_not,
    ne_eq, not_not]
  tauto

theorem execTbStart_next : execTbStart s = .next t ↔
    (s.flt = true ∧ t = s.rejected) ∨
    (s.flt = false ∧ s.dp ≠ .fwd ∧ t = s.faulted .sequence) ∨
    (s.flt = false ∧ s.dp = .fwd ∧ s.t = 0 ∧ t = s.faulted .lengthZero) ∨
    (s.flt = false ∧ s.dp = .fwd ∧ s.t ≠ 0 ∧
      t = (((s.setCur 0).setK s.t).setDp .tb).answered (countData s.t)) := by
  simp only [execTbStart, whenRunning_next, require_next, respond_next, decide_eq_true_eq, decide_eq_false_iff_not,
    ne_eq, not_not]
  tauto

theorem State.nextK_of_pos (h : 1 ≤ s.k.toNat) : s.nextK = s.k - 1 := by
  unfold State.nextK
  rw [if_neg]
  intro h0
  simp [h0] at h

/-- Counting down does not wrap where the rule counts down. -/
theorem State.nextK_toNat (h : 1 ≤ s.k.toNat) : s.nextK.toNat = s.k.toNat - 1 := by
  rw [State.nextK_of_pos h, BitVec.toNat_sub_of_le] <;> simp [BitVec.le_def]
  exact h

/-- The state after a step of the walk, its response not yet given (43_traceback.md R127). -/
abbrev State.walked (s : State) : State :=
  (((s.writeOut s.k.toNat (lbl s.walkEdge)).setCur (org s.walkEdge)).setK s.nextK).setDp
    (if s.nextK = 0 then .done else .tb)

theorem execTbStep_next : execTbStep s = .next t ↔
    (s.flt = true ∧ t = s.rejected) ∨
    (s.flt = false ∧ s.dp ≠ .tb ∧ t = s.faulted .sequence) ∨
    (s.flt = false ∧ s.dp = .tb ∧ t = s.walked.answered (walkData (lbl s.walkEdge) s.nextK)) := by
  simp only [execTbStep, whenRunning_next, require_next, respond_next, decide_eq_true_eq, decide_eq_false_iff_not]
  tauto

theorem execOutRd_next {i : BitVec 12} : execOutRd i s = .next t ↔
    (s.flt = true ∧ t = s.rejected) ∨
    (s.flt = false ∧ s.dp ≠ .done ∧ t = s.faulted .sequence) ∨
    (s.flt = false ∧ s.dp = .done ∧ s.t.toNat ≤ i.toNat ∧ t = s.faulted .indexRange) ∨
    (s.flt = false ∧ s.dp = .done ∧ i.toNat < s.t.toNat ∧
      t = s.answered (bitData (s.outCell i.toNat))) := by
  have hi : i.setWidth 13 < s.t ↔ i.toNat < s.t.toNat := by
    have := i.isLt
    simp only [BitVec.lt_def, BitVec.toNat_setWidth]
    omega
  simp only [execOutRd, whenRunning_next, require_next, respond_next, decide_eq_true_eq,
    decide_eq_false_iff_not, hi, Nat.not_lt]
  tauto

/-! ## The step -/

theorem takeCommand_nil (h : s.cmdIn = []) : takeCommand s = none := by simp [takeCommand, h]

theorem takeCommand_cons {w : Word16} {rest : List Word16} (h : s.cmdIn = w :: rest) :
    takeCommand s = some (w, { s with cmdIn := rest }) := by simp [takeCommand, h]

/-- Everything a step can do: wait, run the decoded command, or take an illegal word. -/
theorem step_cases (s : State) :
    (s.cmdIn = [] ∧ step s = .next s) ∨
    (∃ w rest i, s.cmdIn = w :: rest ∧ decode w = .ok i ∧ step s = exec i { s with cmdIn := rest }) ∨
    (∃ w rest e, s.cmdIn = w :: rest ∧ decode w = .error e ∧ step s = illegalWord { s with cmdIn := rest }) := by
  cases h : s.cmdIn with
  | nil => exact .inl ⟨rfl, by simp [step, takeCommand_nil h, waitForCommand]⟩
  | cons w rest =>
    refine .inr ?_
    cases hd : decode w with
    | ok i => exact .inl ⟨w, rest, i, rfl, hd, by simp [step, takeCommand_cons h, hd]⟩
    | error e => exact .inr ⟨w, rest, e, rfl, hd, by simp [step, takeCommand_cons h, hd]⟩

end

end Sys2Proof.Machine
end

