-- ==== Sys2Proof/Laws/PerInstr.lean ====
section
/-! SUPPORT. Statements for all commands, one lemma per constructor of Instr. -/

namespace Sys2Proof.Laws

/-! Every typed command is well formed: the text command that stands for it passes the checks of R72. -/

def AlwaysWellFormed.Statement (i : Instr) : Prop := i.wellFormed = true

theorem AlwaysWellFormed.coreRst : AlwaysWellFormed.Statement .coreRst := rfl
theorem AlwaysWellFormed.coreStat : AlwaysWellFormed.Statement .coreStat := rfl
theorem AlwaysWellFormed.encPad (b : Bit) : AlwaysWellFormed.Statement (.encPad b) := by cases b <;> rfl
theorem AlwaysWellFormed.encBit (b : Bit) : AlwaysWellFormed.Statement (.encBit b) := by cases b <;> rfl
theorem AlwaysWellFormed.encEnd : AlwaysWellFormed.Statement .encEnd := rfl
theorem AlwaysWellFormed.mapTri (x : Triple Bit) : AlwaysWellFormed.Statement (.mapTri x) := by
  obtain ⟨a, b, c⟩ := x
  cases a <;> cases b <;> cases c <;> rfl
theorem AlwaysWellFormed.fmrInit : AlwaysWellFormed.Statement .fmrInit := rfl
theorem AlwaysWellFormed.fmrStep (y : Triple Sym) : AlwaysWellFormed.Statement (.fmrStep y) := by
  obtain ⟨a, b, c⟩ := y
  cases a <;> cases b <;> cases c <;> rfl
theorem AlwaysWellFormed.fmrRdm (q : StateNo) : AlwaysWellFormed.Statement (.fmrRdm q) := by
  unfold AlwaysWellFormed.Statement
  revert q; decide
theorem AlwaysWellFormed.tbStart : AlwaysWellFormed.Statement .tbStart := rfl
theorem AlwaysWellFormed.tbStep : AlwaysWellFormed.Statement .tbStep := rfl

/-- Four decimal digits spell every number below 10000. -/
theorem decimalValue_decimalDigits {n : Nat} (h : n < 10000) : decimalValue (decimalDigits 3 n) = n := by
  simp only [decimalDigits]
  split <;> [skip; split <;> [skip; split]] <;> simp [decimalValue] <;> omega

theorem decimalDigits_le (n : Nat) : ∀ d ∈ decimalDigits 3 n, d ≤ 9 := by
  simp only [decimalDigits]
  split <;> [skip; split <;> [skip; split]] <;> simp <;> omega

theorem decimalDigits_ne_nil (n : Nat) : decimalDigits 3 n ≠ [] := by
  simp only [decimalDigits]
  split <;> simp

theorem AlwaysWellFormed.outRd (i : BitVec 12) : AlwaysWellFormed.Statement (.outRd i) := by
  have hi := i.isLt
  have hv := decimalValue_decimalDigits (n := i.toNat) (by omega)
  simp only [AlwaysWellFormed.Statement, Instr.wellFormed, Instr.raw, RawCmd.wellFormed, Mnemonic.format,
    Format.accepts, hv]
  simp [decimalDigits_ne_nil, hi]
  exact decimalDigits_le i.toNat

/-! The word of every command matches its row of the opcode map (30_encoding.md R76). -/

def EncodesToItsRow.Statement (i : Instr) : Prop :=
  ∃ r ∈ opcodeTable, r.mnemonic = i.mnemonic ∧ encode i &&& r.mask = r.pattern

theorem EncodesToItsRow.coreRst : EncodesToItsRow.Statement .coreRst := by unfold EncodesToItsRow.Statement; decide
theorem EncodesToItsRow.coreStat : EncodesToItsRow.Statement .coreStat := by unfold EncodesToItsRow.Statement; decide
theorem EncodesToItsRow.encPad (b : Bit) : EncodesToItsRow.Statement (.encPad b) := by cases b <;> (unfold EncodesToItsRow.Statement; decide)
theorem EncodesToItsRow.encBit (b : Bit) : EncodesToItsRow.Statement (.encBit b) := by cases b <;> (unfold EncodesToItsRow.Statement; decide)
theorem EncodesToItsRow.encEnd : EncodesToItsRow.Statement .encEnd := by unfold EncodesToItsRow.Statement; decide
theorem EncodesToItsRow.mapTri (x : Triple Bit) : EncodesToItsRow.Statement (.mapTri x) := by
  obtain ⟨a, b, c⟩ := x
  cases a <;> cases b <;> cases c <;> (unfold EncodesToItsRow.Statement; decide)
theorem EncodesToItsRow.fmrInit : EncodesToItsRow.Statement .fmrInit := by unfold EncodesToItsRow.Statement; decide
theorem EncodesToItsRow.fmrStep (y : Triple Sym) : EncodesToItsRow.Statement (.fmrStep y) := by
  obtain ⟨a, b, c⟩ := y
  cases a <;> cases b <;> cases c <;> (unfold EncodesToItsRow.Statement; decide)
theorem EncodesToItsRow.fmrRdm (q : StateNo) : EncodesToItsRow.Statement (.fmrRdm q) := by
  unfold EncodesToItsRow.Statement
  revert q; decide
theorem EncodesToItsRow.tbStart : EncodesToItsRow.Statement .tbStart := by unfold EncodesToItsRow.Statement; decide
theorem EncodesToItsRow.tbStep : EncodesToItsRow.Statement .tbStep := by unfold EncodesToItsRow.Statement; decide
theorem EncodesToItsRow.outRd (i : BitVec 12) : EncodesToItsRow.Statement (.outRd i) := by
  refine ⟨⟨.outRd, 0xE000, 0xF000⟩, by decide, rfl, ?_⟩
  have hm : (0xF000 : Word16) = ((0xF : BitVec 4) ++ (0 : BitVec 12) : BitVec (4 + 12)) := by decide
  have hp : (0xE000 : Word16) = ((0xE : BitVec 4) ++ (0 : BitVec 12) : BitVec (4 + 12)) := by decide
  show encode (.outRd i) &&& (0xF000 : Word16) = 0xE000
  rw [hm, hp]
  show ((0xE : BitVec 4) ++ i : BitVec (4 + 12)) &&& _ = _
  refine BitVec.and_append.trans ?_
  simp

end Sys2Proof.Laws
end

