-- ==== Sys2Proof/Laws/Response.lean ====
section
/-! SUPPORT. The fields of words as numbers: a concatenation is a weighted sum, and what each response word and
data field is as a number. -/

namespace Sys2Proof.Machine

theorem toNat_append_eq {n k : Nat} (x : BitVec n) (y : BitVec k) :
    (x ++ y).toNat = x.toNat * 2 ^ k + y.toNat := by
  rw [BitVec.toNat_append, ← Nat.shiftLeft_add_eq_or_of_lt y.isLt, Nat.shiftLeft_eq]

@[simp] theorem toNat_ofBool_eq (b : Bool) : (BitVec.ofBool b).toNat = b.toNat := by cases b <;> rfl

theorem toNat_bool_le (b : Bool) : b.toNat ≤ 1 := by cases b <;> decide

theorem packResponse_toNat (err : BitVec 4) (u : Bit) (data : BitVec 16) :
    (packResponse err u data).toNat = err.toNat * 2 ^ 28 + u.toNat * 2 ^ 16 + data.toNat := by
  have h : (packResponse err u data).toNat
      = ((err ++ (0 : BitVec 11) ++ BitVec.ofBool u ++ data : BitVec (4 + 11 + 1 + 16))).toNat := rfl
  rw [h, toNat_append_eq, toNat_append_eq, toNat_append_eq, toNat_ofBool_eq]
  have h0 : (0 : BitVec 11).toNat = 0 := rfl
  omega

/-- A response word as a number (30_encoding.md R75). -/
theorem packResponse_eq (err : BitVec 4) (u : Bit) (data : BitVec 16) :
    packResponse err u data = BitVec.ofNat 32 (err.toNat * 2 ^ 28 + u.toNat * 2 ^ 16 + data.toNat) :=
  BitVec.eq_of_toNat_eq (by
    rw [packResponse_toNat, BitVec.toNat_ofNat]
    have h1 := err.isLt
    have h2 := toNat_bool_le u
    have h3 := data.isLt
    omega)

@[simp] theorem packResponse_data (data : BitVec 16) : packResponse 0#4 false data = BitVec.ofNat 32 data.toNat := by
  simp [packResponse_eq]

@[simp] theorem packResponse_err (err : BitVec 4) : packResponse err false 0#16 = BitVec.ofNat 32 (err.toNat * 2 ^ 28) := by
  simp [packResponse_eq]

@[simp] theorem packResponse_unr : packResponse 0#4 true 0#16 = BitVec.ofNat 32 0x10000 := by decide

/-- What completing does, in full. -/
theorem answered_eq (s : State) (d : BitVec 16) :
    s.answered d = { s with rspOut := s.rspOut ++ [BitVec.ofNat 32 d.toNat] } := by
  rw [← packResponse_data]; rfl

/-- What a rejection does, in full (60_exceptions.md R169). -/
theorem rejected_eq (s : State) : s.rejected = { s with rspOut := s.rspOut ++ [BitVec.ofNat 32 (15 * 2 ^ 28)] } := by
  rw [State.rejected, State.emit]; rfl

/-- What taking a fault does, in full (60_exceptions.md R168). -/
theorem faulted_eq (s : State) (c : Cause) :
    s.faulted c = { s with
      flt := true, cause := c.code, rspOut := s.rspOut ++ [BitVec.ofNat 32 (c.code.toNat * 2 ^ 28)] } := by
  rw [← packResponse_err]; rfl

@[simp] theorem tripleData_toNat (x : Triple Bit) :
    (tripleData x).toNat = 4 * x.x0.toNat + 2 * x.x1.toNat + x.x2.toNat := by
  obtain ⟨a, b, c⟩ := x
  cases a <;> cases b <;> cases c <;> decide

@[simp] theorem stateData_toNat (q : StateNo) : (stateData q).toNat = q.toNat := by
  have := q.isLt
  simp only [stateData, BitVec.toNat_setWidth]
  omega

@[simp] theorem countData_toNat (c : Count) : (countData c).toNat = c.toNat := by
  have := c.isLt
  simp only [countData, BitVec.toNat_setWidth]
  omega

@[simp] theorem bitData_toNat (b : Bit) : (bitData b).toNat = b.toNat := by cases b <;> decide

@[simp] theorem walkData_toNat (b : Bit) (k : Count) : (walkData b k).toNat = b.toNat + 2 * k.toNat := by
  have h : (walkData b k).toNat = (((0 : BitVec 2) ++ k ++ BitVec.ofBool b : BitVec (2 + 13 + 1))).toNat := rfl
  rw [h, toNat_append_eq, toNat_append_eq, toNat_ofBool_eq]
  have h0 : (0 : BitVec 2).toNat = 0 := rfl
  omega

/-- The status view as a number (10_state.md R31). -/
theorem status_toNat (s : State) : s.status.toNat = s.ep.toNat + 4 * s.ene.toNat + 8 * s.m.toNat
    + 32 * s.dp.code.toNat + 128 * s.cur.toNat + 512 * s.flt.toNat + 1024 * s.cause.toNat := by
  have h : s.status.toNat = (((0 : BitVec 2) ++ s.cause ++ BitVec.ofBool s.flt ++ s.cur ++ s.dp.code ++ s.m
    ++ BitVec.ofBool s.ene ++ s.ep : BitVec (2 + 4 + 1 + 2 + 2 + 2 + 1 + 2))).toNat := rfl
  rw [h]
  simp only [toNat_append_eq, toNat_ofBool_eq]
  have h0 : (0 : BitVec 2).toNat = 0 := rfl
  omega

/-- A 2-bit state number as a number. -/
theorem stateNo_toNat (q : StateNo) : q.toNat = 2 * (stateM1 q).toNat + (stateM0 q).toNat := by
  revert q; decide

end Sys2Proof.Machine
end

