-- ==== Sys2Proof/Laws/Trellis.lean ====
section
/-! SUPPORT. Laws of the trellis and of the metric arithmetic. -/

namespace Sys2Proof.Machine

/-- ORG[2*d + p] = 2*d[0] + p (10_state.md R35). -/
theorem org_edgeNo (d : StateNo) (p : Bit) :
    org (edgeNo d p) = (BitVec.ofBool (stateM0 d) ++ BitVec.ofBool p : BitVec (1 + 1)) := by
  revert d p; decide

/-- LBL[2*d + p] = d[1] (10_state.md R34). -/
theorem lbl_edgeNo (d : StateNo) (p : Bit) : lbl (edgeNo d p) = stateM1 d := by
  revert d p; decide

/-- The edge with code `p` into `d` leads from its origin to `d` on its label (10_state.md R36). -/
theorem trellisNext_org (d : StateNo) (p : Bit) : trellisNext (org (edgeNo d p)) (lbl (edgeNo d p)) = d := by
  revert d p; decide

/-- REF[e] is what the encoder sends on edge e (10_state.md R33). -/
theorem refOut_edgeNo (d : StateNo) (p : Bit) :
    refOut (edgeNo d p) = (encOut (stateM1 d) (stateM0 d) p).map symOfBit := by
  revert d p; decide

@[simp] theorem mge_unr (a : Metric) : mge a .unr = true := by cases a <;> rfl

@[simp] theorem mge_unr_val (v : Int) : mge .unr (.val v) = false := rfl

@[simp] theorem mge_val_val (v w : Int) : mge (.val v) (.val w) = decide (w ≤ v) := rfl

@[simp] theorem madd_unr (n : Int) : madd .unr n = .unr := rfl

@[simp] theorem madd_val (v n : Int) : madd (.val v) n = .val (v + n) := rfl

theorem forwardRow_get (row : Row Metric) (y : Triple Sym) (d : StateNo) :
    (forwardRow row y).get d = selectEdge row y d := Row.get_ofFn _ _

/-- The winner is one of the two candidates, and its code names the edge it came by. -/
theorem selectEdge_fst (row : Row Metric) (y : Triple Sym) (d : StateNo) :
    (selectEdge row y d).1 = candidate row y d (selectEdge row y d).2 := by
  unfold selectEdge; split <;> rfl

theorem bit_bound (a b : Sym) : -1 ≤ symInt a * symInt b ∧ symInt a * symInt b ≤ 1 := by
  cases a <;> cases b <;> decide

/-- A branch metric lies in -3..3 (42_forward_recursion.md R109). -/
theorem branchMetric_bound (y : Triple Sym) (e : EdgeNo) : -3 ≤ branchMetric y e ∧ branchMetric y e ≤ 3 := by
  have h0 := bit_bound y.x0 (refOut e).x0
  have h1 := bit_bound y.x1 (refOut e).x1
  have h2 := bit_bound y.x2 (refOut e).x2
  unfold branchMetric
  omega

end Sys2Proof.Machine
end

