-- ==== Sys2Proof/Tests/Slice0.lean ====
section
/-! SUPPORT. Tests of the model against values of the spec (30_encoding.md R76 and R81, 95_test_vectors.md), and for
every obligation with hypotheses a state and operands that meet them. Vector names V7 to V25 are those of
95_test_vectors.md. -/

open Sys2Proof Sys2Proof.Machine Sys2Proof.Safety

namespace Sys2Proof.Tests

/-! ## Decoding: one word per constructor, written from the match column of R76 and the formats of R72 -/

theorem test_decode_coreRst : decode 0b0001000000000000 = .ok .coreRst := by decide
theorem test_decode_coreStat : decode 0b0010000000000000 = .ok .coreStat := by decide
theorem test_decode_encPad : decode 0b0100000000000001 = .ok (.encPad true) := by decide
theorem test_decode_encBit : decode 0b0101000000000001 = .ok (.encBit true) := by decide
theorem test_decode_encEnd : decode 0b0110000000000000 = .ok .encEnd := by decide
theorem test_decode_mapTri : decode 0b0111000000000011 = .ok (.mapTri ⟨false, true, true⟩) := by decide
theorem test_decode_fmrInit : decode 0b1000000000000000 = .ok .fmrInit := by decide
theorem test_decode_fmrStep : decode 0b1001000000000110 = .ok (.fmrStep ⟨.minus, .minus, .plus⟩) := by decide
theorem test_decode_fmrRdm : decode 0b1010000000000010 = .ok (.fmrRdm 2) := by decide
theorem test_decode_tbStart : decode 0b1100000000000000 = .ok .tbStart := by decide
theorem test_decode_tbStep : decode 0b1101000000000000 = .ok .tbStep := by decide
theorem test_decode_outRd : decode 0b1110001111111101 = .ok (.outRd 1021) := by decide

/-- The illegal words of V24 with a reserved op. -/
theorem test_decode_reserved_op :
    decode 0x0000 = .error .reservedOp ∧ decode 0x0FFF = .error .reservedOp ∧ decode 0x3000 = .error .reservedOp ∧
    decode 0xB123 = .error .reservedOp ∧ decode 0xF000 = .error .reservedOp ∧ decode 0xFFFF = .error .reservedOp := by
  and_intros <;> decide

/-- The illegal words of V24 with a reserved bit set, one per row that has reserved bits. -/
theorem test_decode_reserved_bit :
    decode 0x1001 = .error .reservedBits ∧ decode 0x2800 = .error .reservedBits ∧ decode 0x4002 = .error .reservedBits ∧
    decode 0x5010 = .error .reservedBits ∧ decode 0x6001 = .error .reservedBits ∧ decode 0x7008 = .error .reservedBits ∧
    decode 0x8001 = .error .reservedBits ∧ decode 0x9008 = .error .reservedBits ∧ decode 0xA004 = .error .reservedBits ∧
    decode 0xC800 = .error .reservedBits ∧ decode 0xD001 = .error .reservedBits := by
  and_intros <;> decide

theorem test_decodeTableWord_reads : decodeTableWord 16 0x9006 = some (.fmrStep ⟨.minus, .minus, .plus⟩) := by decide
theorem test_decodeTableWord_refuses : decodeTableWord 16 0x1001 = none := by decide

/-! ## WellFormed: one ill-formed command per check, which the check refuses (R72, R81) -/

theorem test_wellFormed_z_refuses_operand : RawCmd.wellFormed ⟨.coreRst, [0]⟩ = false := by decide
theorem test_wellFormed_b1_refuses_none : RawCmd.wellFormed ⟨.encPad, []⟩ = false := by decide
theorem test_wellFormed_b1_refuses_two : RawCmd.wellFormed ⟨.encBit, [2]⟩ = false := by decide
theorem test_wellFormed_b3_refuses_short : RawCmd.wellFormed ⟨.mapTri, [1, 0]⟩ = false := by decide
theorem test_wellFormed_b3_refuses_two : RawCmd.wellFormed ⟨.fmrStep, [1, 2, 0]⟩ = false := by decide
theorem test_wellFormed_s2_refuses_four : RawCmd.wellFormed ⟨.fmrRdm, [4]⟩ = false := by decide
theorem test_wellFormed_s2_refuses_long : RawCmd.wellFormed ⟨.fmrRdm, [0, 1]⟩ = false := by decide
theorem test_wellFormed_i12_refuses_none : RawCmd.wellFormed ⟨.outRd, []⟩ = false := by decide
theorem test_wellFormed_i12_refuses_digit : RawCmd.wellFormed ⟨.outRd, [10]⟩ = false := by decide
theorem test_wellFormed_i12_refuses_4096 : RawCmd.wellFormed ⟨.outRd, [4, 0, 9, 6]⟩ = false := by decide
theorem test_wellFormed_i12_accepts_4095 : RawCmd.wellFormed ⟨.outRd, [4, 0, 9, 5]⟩ = true := by decide

/-! ## The assembler: the examples of R81 -/

theorem test_assemble_fmrStep : (assembleLine "FMR.STEP 110".toList).map encode = some 0x9006 := by decide
theorem test_assemble_encPad : (assembleLine "ENC.PAD 0".toList).map encode = some 0x4000 := by decide
theorem test_assemble_outRd : (assembleLine "OUT.RD 1021 ; read".toList).map encode = some 0xE3FD := by decide
theorem test_assemble_refuses : assembleLine "FMR.RDM 4".toList = none := by decide

/-! ## States the tests and witnesses use

`bench` has NMAX = 2 and the tables of the run that received 000 000 (V3, rows 0 to 2; V21's Capacity run). -/

def triple000 : Triple Sym := ⟨.plus, .plus, .plus⟩

def bench (dp : Phase) (t k : Count) : State :=
  { State.reset with
    cfg := ⟨1⟩, dp := dp, t := t, k := k
    mem :=
      { d := [(0, .val 0), (1, .unr), (2, .unr), (3, .unr), (4, .val 3), (5, .unr), (6, .val (-3)), (7, .unr),
              (8, .val 6), (9, .val (-2)), (10, .val 0), (11, .val (-4))]
        p := [(4, false), (5, false), (6, false), (7, false), (8, false), (9, false), (10, false), (11, false)]
        out := [(0, false), (1, false)] } }

/-- The encoder with the pads taken and memory `m`. -/
def encoding (m : StateNo) : State := { State.reset with ep := 2, m := m, ene := true }

/-- A core that has faulted with PadNonZero (P4). -/
def faulted : State := { State.reset with flt := true, cause := 2 }

def look {α : Type} (f : State → α) : Result → Option α
  | .next s => some (f s)
  | .fault _ => none
  | .refused _ => none

def answer : Result → Option Word32
  | .next s => s.rspOut.getLast?
  | .fault _ => none
  | .refused _ => none

/-! ## One step each -/

/-- P4, step 7. -/
theorem test_coreRst_clears_the_latch :
    look (fun t => (t.flt, t.cause, t.rspOut)) (exec .coreRst faulted) = some (false, 0, [0x00000000]) := by decide
/-- R135: the run in progress is discarded and the tables are unspecified. -/
theorem test_coreRst_drops_the_run :
    look (fun t => (t.dp, t.t, t.mem, t.m)) (exec .coreRst { bench .tb 2 2 with m := 3 }) =
      some (.idle, 0, ⟨[], [], []⟩, 0) := by decide
/-- R136's example and V19. -/
theorem test_coreStat_layout :
    answer (exec .coreStat { encoding 2 with dp := .fwd }) = some 0x00000036 := by decide
/-- V19, the line with EP = 1 and CAUSE = 2. -/
theorem test_coreStat_while_faulted :
    answer (exec .coreStat { faulted with ep := 1 }) = some 0x00000A01 := by decide
/-- V8, step 7. -/
theorem test_encPad_shifts :
    look (fun t => (t.m, t.ep, t.rspOut)) (exec (.encPad false) { State.reset with m := 3 }) =
      some (1, 1, [0x00000000]) := by decide
/-- V22: `ENC.PAD 1` with EP = 2 reports Sequence. -/
theorem test_encPad_phase_before_operand :
    look (fun t => (t.flt, t.cause, t.rspOut)) (exec (.encPad true) (encoding 0)) =
      some (true, 4, [0x40000000]) := by decide
/-- V7, the eight rows: memory, bit, answer and memory after. -/
theorem test_encBit_transitions :
    look (fun t => (t.rspOut, t.m)) (exec (.encBit false) (encoding 0)) = some ([0], 0) ∧
    look (fun t => (t.rspOut, t.m)) (exec (.encBit true) (encoding 0)) = some ([7], 2) ∧
    look (fun t => (t.rspOut, t.m)) (exec (.encBit false) (encoding 1)) = some ([6], 0) ∧
    look (fun t => (t.rspOut, t.m)) (exec (.encBit true) (encoding 1)) = some ([1], 2) ∧
    look (fun t => (t.rspOut, t.m)) (exec (.encBit false) (encoding 2)) = some ([4], 1) ∧
    look (fun t => (t.rspOut, t.m)) (exec (.encBit true) (encoding 2)) = some ([3], 3) ∧
    look (fun t => (t.rspOut, t.m)) (exec (.encBit false) (encoding 3)) = some ([2], 1) ∧
    look (fun t => (t.rspOut, t.m)) (exec (.encBit true) (encoding 3)) = some ([5], 3) := by
  and_intros <;> decide
/-- V21: one pad only. -/
theorem test_encBit_needs_two_pads :
    answer (exec (.encBit false) { State.reset with ep := 1 }) = some 0x40000000 := by decide
/-- V8, step 5. -/
theorem test_encEnd_answers_the_memory :
    look (fun t => (t.m, t.ep, t.ene, t.rspOut)) (exec .encEnd (encoding 3)) =
      some (3, 0, false, [0x00000003]) := by decide
/-- V21, LengthZero. -/
theorem test_encEnd_of_no_bits :
    look (fun t => (t.ep, t.cause, t.rspOut)) (exec .encEnd { State.reset with ep := 2 }) =
      some (2, 1, [0x10000000]) := by decide
/-- V9. -/
theorem test_mapTri : answer (exec (.mapTri ⟨true, true, false⟩) State.reset) = some 0x00000006 := by decide
/-- V9, while faulted. -/
theorem test_mapTri_rejected : answer (exec (.mapTri ⟨true, false, true⟩) faulted) = some 0xF0000000 := by decide
/-- R107 and V25: CUR and K keep their values. -/
theorem test_fmrInit_from_traceback :
    look (fun t => (t.dp, t.t, t.dRow 0, t.cur, t.k)) (exec .fmrInit { bench .tb 2 2 with cur := 1 }) =
      some (.fwd, 0, ⟨.val 0, .unr, .unr, .unr⟩, 1, 2) := by decide
/-- V15, t = 3: a tie at destination 0, which the first edge wins. -/
theorem test_fmrStep_tie :
    forwardRow ⟨.val 4, .val 0, .val 2, .val (-6)⟩ ⟨.minus, .minus, .plus⟩ =
      ⟨(.val 3, false), (.val 3, false), (.val 5, false), (.val 1, false)⟩ := by decide
/-- V11, t = 3: the second edge wins at every destination; and V3, t = 2, through the tables. -/
theorem test_fmrStep_second_edge :
    forwardRow ⟨.val (-2), .val 6, .val (-4), .val 0⟩ ⟨.minus, .minus, .plus⟩ =
      ⟨(.val 9, true), (.val 1, true), (.val 3, true), (.val (-1), true)⟩ ∧
    look (fun t => (t.dRow 2, t.t, t.rspOut)) (exec (.fmrStep triple000) (bench .fwd 1 0)) =
      some (⟨.val 6, .val (-2), .val 0, .val (-4)⟩, 2, [0x00000002]) := by decide
/-- V17: -4 and an unreachable state. -/
theorem test_fmrRdm_forms :
    answer (exec (.fmrRdm 3) (bench .fwd 2 0)) = some 0x0000FFFC ∧
    answer (exec (.fmrRdm 1) (bench .fwd 1 0)) = some 0x00010000 := by decide
/-- V17, from reset. -/
theorem test_fmrRdm_idle : answer (exec (.fmrRdm 0) State.reset) = some 0x40000000 := by decide
/-- R126. -/
theorem test_tbStart :
    look (fun t => (t.cur, t.k, t.dp, t.rspOut)) (exec .tbStart { bench .fwd 2 0 with cur := 3 }) =
      some (0, 2, .tb, [0x00000002]) := by decide
/-- V22: T = 0 in phase FWD. -/
theorem test_tbStart_of_no_steps : answer (exec .tbStart (bench .fwd 0 0)) = some 0x10000000 := by decide
/-- R127's example with K = 1, CUR = 2 and P[1,2] = 0: bit 1, OUT[0] <- 1, CUR <- 0, DP <- DONE. -/
theorem test_tbStep_last :
    look (fun t => (t.outCell 0, t.cur, t.k, t.dp, t.rspOut)) (exec .tbStep { bench .tb 2 1 with cur := 2 }) =
      some (true, 0, 0, .done, [0x00000001]) := by decide
/-- V18: one more `TB.STEP` after the walk. -/
theorem test_tbStep_after_the_walk : answer (exec .tbStep (bench .done 2 0)) = some 0x40000000 := by decide
/-- V21: index T - 1 is read, index T faults. -/
theorem test_outRd_limits :
    answer (exec (.outRd 1) (bench .done 2 0)) = some 0x00000000 ∧
    answer (exec (.outRd 2) (bench .done 2 0)) = some 0x70000000 := by decide
/-- V22: phase before index. -/
theorem test_outRd_phase_first : answer (exec (.outRd 4095) (bench .fwd 2 0)) = some 0x40000000 := by decide

/-- V21, Capacity: T stays. -/
theorem test_capacity :
    look (fun t => (t.t, t.cause, t.rspOut)) (exec (.fmrStep triple000) (bench .fwd 2 0)) =
      some (2, 5, [0x50000000]) := by decide
/-- V22: `CORE.RST` with a reserved bit while faulted does not reset. -/
theorem test_step_rejects_illegal_reset :
    look (fun t => (t.flt, t.cause, t.rspOut)) (step (faulted.withFetchWord 16 0x1001)) =
      some (true, 2, [0xF0000000]) := by decide
theorem test_withFetchWord_runs_first :
    look (fun t => (t.rspOut, t.cmdIn)) (step ({ State.reset with cmdIn := [0x6000] }.withFetchWord 16 0x7005)) =
      some ([0x00000005], [0x6000]) := by decide

/-! ## Witnesses: states that meet the hypotheses of the obligations -/

/-- `bench` satisfies the invariant whenever its phase, T and K agree. -/
theorem bench_inv (dp : Phase) (t k : Count)
    (h : t.toNat ≤ 2 ∧ (dp = .idle → t = 0) ∧ (dp = .tb → 1 ≤ k.toNat ∧ k.toNat ≤ t.toNat) ∧
      (dp = .done → k = 0 ∧ 1 ≤ t.toNat)) : Inv (bench dp t k) := by
  obtain ⟨ht, hidle, htb, hdone⟩ := h
  have hmem : (bench dp t k).mem = (bench .fwd 2 0).mem := rfl
  have hrows : ∀ n : Fin 2, ∀ q, readCell (bench .fwd 2 0).mem.d (cellAddr (n + 1) q)
        = some (selectEdge ((bench .fwd 2 0).dRow n) triple000 q).1 ∧
      readCell (bench .fwd 2 0).mem.p (cellAddr (n + 1) q)
        = some (selectEdge ((bench .fwd 2 0).dRow n) triple000 q).2 := by decide
  have hzero : ∀ n : Fin 3, (bench .fwd 2 0).dCell n 0 ≠ .unr := by decide
  have hout : ∀ n : Fin 2, readCell (bench .fwd 2 0).mem.out n = some false := by decide
  exact
    { memWf := (by decide : (bench .fwd 2 0).mem.wf 2)
      epLe := (by decide : State.reset.ep.toNat ≤ 2)
      eneEp := fun he => absurd he (by decide : ¬State.reset.ene = true)
      onePad := fun he => absurd he (by decide : ¬State.reset.ep = 1)
      padsClear := fun _ _ => rfl
      tLe := ht
      idleT := hidle
      tbK := htb
      doneK := fun hd => ⟨(hdone hd).1, (hdone hd).2, rfl⟩
      rowZero := fun _ => by rw [hmem]; decide
      rowsForward := fun _ n hn => ⟨triple000, hrows ⟨n, lt_of_lt_of_le hn ht⟩⟩
      walkReachable := fun hd => hzero ⟨k.toNat, Nat.lt_succ_of_le (le_trans (htb hd).2 ht)⟩
      outWritten := fun _ i _ hi => ⟨false, hout ⟨i, lt_of_lt_of_le hi ht⟩⟩
      latch := .inl ⟨rfl, rfl⟩ }

/-- The invariant with the encoder mid-message, and with a latched fault. -/
theorem encoding_inv : Inv { bench .idle 0 0 with ep := 2, ene := true, m := 3 } := by
  have h := bench_inv .idle 0 0 (by decide)
  exact ⟨h.memWf, by decide, by decide, by decide, by decide, h.tLe, h.idleT, h.tbK, h.doneK, h.rowZero,
    h.rowsForward, h.walkReachable, h.outWritten, h.latch⟩

/-- Presenting a word and taking one step from it. -/
theorem reachable_after {s t : State} (w : Word16) (h : Reachable s) (hs : step (presentLast s [w]) = .next t) :
    Reachable t := .step (.present w h) hs

/-- A reachable state, in each of the phases IDLE, FWD, TB and DONE, with the encoder registers set. -/
theorem witness_reachable_phases :
    ∃ a b c d : State, Reachable a ∧ Reachable b ∧ Reachable c ∧ Reachable d ∧
      (a.dp = .idle ∧ a.ep = 2 ∧ a.ene = true) ∧ (b.dp = .fwd ∧ b.ep = 2 ∧ b.ene = true) ∧ c.dp = .tb ∧ d.dp = .done := by
  have h0 := Reachable.reset ⟨0⟩
  have h1 := reachable_after 0x4000 h0 rfl
  have h2 := reachable_after 0x4000 h1 rfl
  have h3 := reachable_after 0x5001 h2 rfl
  have h4 := reachable_after 0x8000 h3 rfl
  have h5 := reachable_after 0x9000 h4 rfl
  have h6 := reachable_after 0xC000 h5 rfl
  have h7 := reachable_after 0xD000 h6 rfl
  exact ⟨_, _, _, _, h3, h5, h6, h7, by decide, by decide, by decide, by decide⟩

/-- A reachable state with both pads taken and no message bit, for R49 (c). -/
theorem witness_reachable_pads : ∃ a : State, Reachable a ∧ a.ep = 2 ∧ a.ene = false := by
  have h1 := reachable_after 0x4000 (Reachable.reset ⟨0⟩) rfl
  have h2 := reachable_after 0x4000 h1 rfl
  exact ⟨_, h2, by decide, by decide⟩

/-! ### Encoding -/

theorem witness_EncodeOfDecodeIsIdentity : decode 0xEFFF = .ok (.outRd 4095) := by decide
theorem witness_WordIsCommandExactlyByMaskAndMatch :
    (⟨.outRd, 0xE000, 0xF000⟩ : OpRow) ∈ opcodeTable ∧ (0xEFFF : Word16) &&& 0xF000 = 0xE000 ∧
    (⟨.fmrRdm, 0xA000, 0xFFFC⟩ : OpRow) ∈ opcodeTable ∧ (0xA004 : Word16) &&& 0xFFFC ≠ 0xA000 := by decide
theorem witness_ReservedOperationCodesAreIllegal :
    (0x0FFF : Word16).toNat / 4096 = 0x0 ∧ (0x3000 : Word16).toNat / 4096 = 0x3 ∧
    (0xB123 : Word16).toNat / 4096 = 0xB ∧ (0xF000 : Word16).toNat / 4096 = 0xF := by decide
theorem witness_LegalWordsCounted :
    Mnemonic.encPad.op.toNat = (0x4002 : Word16).toNat / 4096 ∧
    (BitVec.ofNat 12 ((0x4002 : Word16).toNat % 4096)) &&& Mnemonic.encPad.format.reserved ≠ 0 := by decide

/-! ### The step and the fault mechanism -/

theorem witness_StepRunsTheDecodedCommand :
    ({ State.reset with cmdIn := [0x5001, 0x6000] } : State).cmdIn = 0x5001 :: [0x6000] ∧
    decode 0x5001 = .ok (.encBit true) := by decide
theorem witness_NothingChangesBetweenCommands : State.reset.cmdIn = [] := by decide
/-- A reserved op and a reserved bit, with FLT = 0 and with FLT = 1. -/
theorem witness_IllegalWordRaisesIllegalCommand :
    isIllegal 0xFFFF ∧ isIllegal 0x1001 ∧
    ({ State.reset with cmdIn := [0xFFFF] } : State).flt = false ∧
    ({ faulted with cmdIn := [0x1001] } : State).flt = true := by
  refine ⟨?_, ?_, by decide, by decide⟩ <;> unfold isIllegal <;> decide
theorem witness_FaultedCoreRejectsEveryOtherWord :
    ({ faulted with cmdIn := [0x1001] } : State).flt = true ∧ (0x1001 : Word16) ≠ 0x1000 ∧ (0x1001 : Word16) ≠ 0x2000 ∧
    ({ faulted with cmdIn := [0x2000] } : State).cmdIn = 0x2000 :: [] := by decide
theorem witness_FaultEntryChangesOnlyTheLatch :
    State.reset.flt = false ∧ ∃ t, exec .tbStep State.reset = .next t ∧ t.flt = true := ⟨by decide, _, rfl, by decide⟩
/-- One command per cause, and one that completes. -/
theorem witness_CommandReportsTheFirstCause :
    Inv (bench .fwd 2 0) ∧ (bench .fwd 2 0).flt = false ∧
    firstCause (.fmrStep triple000) (bench .fwd 2 0) = some .capacity ∧
    firstCause (.encPad true) (bench .fwd 2 0) = some .padNonZero ∧
    firstCause .encEnd (bench .fwd 2 0) = some .lengthZero ∧
    firstCause .tbStep (bench .fwd 2 0) = some .sequence ∧
    firstCause (.fmrRdm 3) (bench .fwd 2 0) = none ∧
    Inv (bench .done 2 0) ∧ firstCause (.outRd 2) (bench .done 2 0) = some .indexRange ∧
    firstCause (.outRd 1) (bench .done 2 0) = none :=
  ⟨bench_inv _ _ _ (by decide), by decide, by decide, by decide, by decide, by decide, by decide,
    bench_inv _ _ _ (by decide), by decide, by decide⟩
/-- A reset clears the latch; any other word leaves it. -/
theorem witness_OnlyResetClearsTheFault :
    faulted.flt = true ∧
    (∃ t, step { faulted with cmdIn := [0x1000] } = .next t ∧ t.flt = false) ∧
    ∃ t, step { faulted with cmdIn := [0x8000] } = .next t ∧ t.flt = true :=
  ⟨by decide, ⟨_, rfl, by decide⟩, _, rfl, by decide⟩
/-- An answer with err = 4, an answer with err = 15, and one with U = 1. -/
theorem witness_OneResponseWordPerCommand :
    (∃ t, step { State.reset with cmdIn := [0xD000] } = .next t ∧ t.rspOut = [0x40000000]) ∧
    (∃ t, step { faulted with cmdIn := [0xD000] } = .next t ∧ t.rspOut = [0xF0000000]) ∧
    ∃ t, step { bench .fwd 1 0 with cmdIn := [0xA001] } = .next t ∧ t.rspOut = [0x00010000] :=
  ⟨⟨_, rfl, by decide⟩, ⟨_, rfl, by decide⟩, _, rfl, by decide⟩
theorem witness_OutcomeIndependentOfThePorts :
    corePart State.reset = corePart { State.reset with cmdIn := [7], rspOut := [9] } ∧
    ∃ t, exec .fmrInit State.reset = .next t := ⟨by decide, _, rfl⟩

/-! ### Invariants -/

/-- StepKeepsTheInvariant: a walk step that ends the walk, and a forward step into the last row. -/
theorem witness_StepKeepsTheInvariant :
    Inv (bench .tb 2 1) ∧ (∃ t, exec .tbStep (bench .tb 2 1) = .next t) ∧
    Inv (bench .fwd 1 0) ∧ ∃ t, exec (.fmrStep triple000) (bench .fwd 1 0) = .next t :=
  ⟨bench_inv _ _ _ (by decide), ⟨_, rfl⟩, bench_inv _ _ _ (by decide), _, rfl⟩
/-- UnwrittenCellsAreNeverRead, at T = NMAX; and StepNeverStops's second clause, at a state that breaks the invariant. -/
theorem witness_UnwrittenCellsAreNeverRead :
    Inv (bench .fwd 2 0) ∧ (bench .fwd 2 0).t.toNat = (bench .fwd 2 0).cfg.nmax ∧
    ({ bench .tb 0 0 with cmdIn := [0xD000] } : State).cmdIn = 0xD000 :: [] :=
  ⟨bench_inv _ _ _ (by decide), by decide, by decide⟩
/-- Both bounds are met: D[2,0] = 6 = 3*2 and D[1,2] = -3 = -3*1. -/
theorem witness_MetricStaysWithinThreeTimesTheStep :
    Inv (bench .fwd 2 0) ∧ (bench .fwd 2 0).dp ≠ .idle ∧ 2 ≤ (bench .fwd 2 0).t.toNat ∧
    (bench .fwd 2 0).dCell 2 0 = .val 6 ∧ (bench .fwd 2 0).dCell 1 2 = .val (-3) :=
  ⟨bench_inv _ _ _ (by decide), by decide, by decide, by decide, by decide⟩
/-- ReachabilityIsFixedByTheTrellis, StoredRowsFollowTheRecursion: a run with all three kinds of row. -/
theorem witness_ReachabilityIsFixedByTheTrellis :
    Inv (bench .tb 2 1) ∧ (bench .tb 2 1).dp ≠ .idle ∧ (0 : Nat) ≤ 2 ∧ 2 ≤ (bench .tb 2 1).t.toNat :=
  ⟨bench_inv _ _ _ (by decide), by decide, by decide, by decide⟩
/-- CoreRstResetsEverything: tables that fail TablesOK (LBL one entry short). -/
theorem witness_CoreRstResetsEverything :
    ({ trellisTables with lbl := [false, false, false, false, true, true, true] } : Tables).ok = false := by decide

/-! ### The encoder -/

theorem witness_EncPadTakesOnePad :
    State.reset.flt = false ∧ State.reset.ep ≠ 2 ∧ (encoding 3).flt = false ∧ (encoding 3).ep = 2 := by decide
theorem witness_EncBitEncodesOneBit :
    ({ State.reset with ep := 1 } : State).flt = false ∧ ({ State.reset with ep := 1 } : State).ep ≠ 2 ∧
    (encoding 1).flt = false ∧ (encoding 1).ep = 2 := by decide
theorem witness_EncEndClosesTheMessage :
    (encoding 2).flt = false ∧ (encoding 2).ene = true ∧ State.reset.flt = false ∧ State.reset.ene = false := by decide
theorem witness_TwoPadsClearTheMemory :
    ({ State.reset with m := 3 } : State).flt = false ∧ ({ State.reset with m := 3 } : State).ep = 0 := by decide
theorem witness_EncoderTouchesOnlyItsRegisters :
    isEncoder (.encBit true) = true ∧ SameEncoder State.reset (bench .tb 2 1) ∧ SameLatch State.reset (bench .tb 2 1) :=
  ⟨rfl, ⟨rfl, rfl, rfl⟩, rfl, rfl⟩

/-! ### The mapper and the forward recursion -/

/-- MapTriIsTheIdentityOnTheWire, FmrInitStartsARun: legal in every phase. -/
theorem witness_FmrInitStartsARun :
    ∀ dp ∈ [Phase.idle, .fwd, .tb, .done], (bench dp 2 1).flt = false ∧ (bench dp 2 1).dp = dp := by decide
/-- Outside FWD; at T = NMAX; at T = NMAX - 1 with both outcomes of the comparison (V11, t = 3). -/
theorem witness_FmrStepSelectsTheBetterEdge :
    (bench .done 2 0).flt = false ∧ (bench .done 2 0).dp ≠ .fwd ∧
    (bench .fwd 2 0).dp = .fwd ∧ (bench .fwd 2 0).t.toNat = (bench .fwd 2 0).cfg.nmax ∧
    (bench .fwd 1 0).dp = .fwd ∧ (bench .fwd 1 0).t.toNat < (bench .fwd 1 0).cfg.nmax ∧
    mge (madd ((bench .fwd 1 0).dCell 1 0) (branchMetric triple000 0))
      (madd ((bench .fwd 1 0).dCell 1 1) (branchMetric triple000 1)) = true ∧
    mge (madd (.val (-2)) (branchMetric ⟨.minus, .minus, .plus⟩ 0))
      (madd (.val 6) (branchMetric ⟨.minus, .minus, .plus⟩ 1)) = false := by decide
/-- In IDLE; an unreachable cell; a negative one; T = NMAX. -/
theorem witness_FmrRdmAnswersTheNewestMetric :
    (bench .idle 0 0).flt = false ∧ (bench .idle 0 0).dp = .idle ∧
    (bench .fwd 1 0).dp ≠ .idle ∧ (bench .fwd 1 0).dCell 1 1 = .unr ∧
    (bench .done 2 0).dp ≠ .idle ∧ (bench .done 2 0).t.toNat = (bench .done 2 0).cfg.nmax ∧
    (bench .done 2 0).dCell 2 3 = .val (-4) := by decide
/-- ForwardTouchesOnlyItsState, EncoderAndDecoderCommandsCommute's second half: a forward command that completes. -/
theorem witness_ForwardTouchesOnlyItsState :
    isForward (.fmrStep triple000) = true ∧ ∃ t, exec (.fmrStep triple000) (bench .fwd 1 0) = .next t :=
  ⟨rfl, _, rfl⟩
/-- A reachable and an unreachable cell of a run of one step; V11's last row, where the second edge wins. -/
theorem witness_PathMetricIsTheBestPath :
    (rowAfter [triple000] 1).get 2 = .val (-3) ∧ (rowAfter [triple000] 1).get 1 = .unr ∧ pathEnd 0 [true] = 2 ∧
    codeAt (forwardRows initRow [⟨.minus, .minus, .minus⟩, ⟨.minus, .plus, .plus⟩, ⟨.minus, .minus, .plus⟩]) 3 0 = true ∧
    (rowAfter [⟨.minus, .minus, .minus⟩, ⟨.minus, .plus, .plus⟩, ⟨.minus, .minus, .plus⟩] 3).get 0 = .val 9 := by
  decide
theorem witness_TransmittedPathScoresThreePerStep :
    [true, false][1]? = some false ∧ (sentTriples [true, false])[1]? = some ⟨.minus, .plus, .plus⟩ := by decide

/-! ### Traceback -/

theorem witness_TbStartBeginsInStateZero :
    (bench .idle 0 0).dp ≠ .fwd ∧ ((bench .fwd 0 0).dp = .fwd ∧ (bench .fwd 0 0).t = 0) ∧
    (bench .fwd 2 0).flt = false ∧ (bench .fwd 2 0).dp = .fwd ∧ (bench .fwd 2 0).t ≠ 0 := by decide
/-- K = NMAX, K = 1 and K = 0. -/
theorem witness_TbStepWalksOneEdgeBack :
    (bench .done 2 0).dp ≠ .tb ∧ (bench .tb 2 2).flt = false ∧ (bench .tb 2 2).dp = .tb ∧
    (bench .tb 2 2).k.toNat = (bench .tb 2 2).cfg.nmax ∧ (bench .tb 2 1).dp = .tb ∧ (bench .tb 2 1).k.toNat = 1 ∧
    (bench .tb 2 0).dp = .tb ∧ (bench .tb 2 0).k.toNat = 0 := by decide
/-- i = T and i = T - 1, with T = NMAX. -/
theorem witness_OutRdAnswersTheDecodedBit :
    (bench .tb 2 1).dp ≠ .done ∧ (bench .done 2 0).flt = false ∧ (bench .done 2 0).dp = .done ∧
    (bench .done 2 0).t.toNat ≤ (2 : BitVec 12).toNat ∧ (1 : BitVec 12).toNat < (bench .done 2 0).t.toNat := by decide
/-- T = NMAX + 1; K = 0 and K = NMAX + 1; i = NMAX. -/
theorem witness_CellOutsideItsTableStopsNothing :
    ((bench .fwd 3 0).flt = false ∧ (bench .fwd 3 0).dp ≠ .idle ∧ (bench .fwd 3 0).cfg.nmax < (bench .fwd 3 0).t.toNat) ∧
    ((bench .tb 2 0).dp = .tb ∧ (bench .tb 2 0).k.toNat = 0) ∧
    (bench .tb 2 3).cfg.nmax < (bench .tb 2 3).k.toNat ∧
    ((bench .done 3 0).dp = .done ∧ (2 : BitVec 12).toNat < (bench .done 3 0).t.toNat ∧
      (bench .done 3 0).cfg.nmax ≤ (2 : BitVec 12).toNat) := by decide
theorem witness_TracebackTouchesOnlyItsState :
    isTraceback .tbStep = true ∧ ∃ t, exec .tbStep (bench .tb 2 2) = .next t := ⟨rfl, _, rfl⟩
/-- Each of the four reads completes. -/
theorem witness_ReadsChangeNothing :
    ∀ i ∈ [Instr.coreStat, .mapTri ⟨true, false, true⟩, .fmrRdm 3, .outRd 1],
      look State.flt (exec i (bench .done 2 0)) = some (bench .done 2 0).flt := by decide
theorem witness_EncoderAndDecoderCommandsCommute :
    isEncoder (.encPad false) = true ∧ isForward (.fmrStep triple000) = true ∧ isTraceback .tbStep = true ∧
    (∃ s1 s2, exec (.encPad false) (bench .fwd 1 0) = .next s1 ∧ s1.flt = false ∧
      exec (.fmrStep triple000) s1 = .next s2 ∧ s2.flt = false) ∧
    ∃ s1 s2, exec .tbStep (bench .tb 2 2) = .next s1 ∧ s1.flt = false ∧
      exec (.encPad false) s1 = .next s2 ∧ s2.flt = false :=
  ⟨rfl, rfl, rfl, ⟨_, _, rfl, by decide, rfl, by decide⟩, _, _, rfl, by decide, rfl, by decide⟩

/-! ### Blocks -/

/-- LastTwoDecodedBitsAreZero: one triple, and two. -/
theorem witness_LastTwoDecodedBitsAreZero : 1 ≤ [triple000].length ∧ 2 ≤ [triple000, triple000].length := by decide
/-- V1's message, which is not terminated in the first case and is in the second. -/
theorem witness_EncodeSequenceAnswersTheCodeword :
    encodeDomain [false, false, true, true] = true ∧ State.reset.flt = false ∧ State.reset.ep = 0 ∧
    (presentCommands State.reset (expandEncode [false, false, true, true])).cmdIn =
      (expandEncode [false, false, true, true]).map encode ++ [] := by decide
theorem witness_ChannelSequenceAnswersTheSymbols :
    (bench .tb 2 1).flt = false ∧
    (presentCommands (bench .tb 2 1) (expandChannel [⟨true, true, false⟩])).cmdIn =
      (expandChannel [⟨true, true, false⟩]).map encode ++ [] := by decide
theorem witness_DecodeSequenceAnswersTheDecodedBits :
    (bench .tb 2 1).flt = false ∧ 1 ≤ [triple000, triple000].length ∧
    [triple000, triple000].length ≤ (bench .tb 2 1).cfg.nmax ∧
    (presentCommands (bench .tb 2 1) (expandDecode [triple000, triple000])).cmdIn =
      (expandDecode [triple000, triple000]).map encode ++ [] := by decide
/-- DecodingACodewordGivesTheMessage, RoundTripSequenceAnswersTheMessage: the message 1 0 0 of P1 and P2, at
N = NMAX = 3, and the one-bit message. -/
theorem witness_RoundTripSequenceAnswersTheMessage :
    encodeDomain [false, false, true, false, false] = true ∧ terminated [false, false, true, false, false] ∧
    [false, false, true, false, false].length ≤ (⟨2⟩ : Config).nmax + 2 ∧
    encodeDomain [false, false, false] = true ∧ terminated [false, false, false] ∧
    (presentCommands State.reset (expandRoundTrip [false, false, true, false, false])).cmdIn =
      (expandRoundTrip [false, false, true, false, false]).map encode ++ [] := by
  refine ⟨by decide, ⟨by decide, by decide⟩, by decide, by decide, ⟨by decide, by decide⟩, by decide⟩
/-- V16: the decoder corrects one inverted symbol; V13: an unterminated message loses its last bit silently. -/
theorem test_decode_corrects_and_fails_silently :
    decodeTriples [⟨.minus, .plus, .minus⟩, ⟨.minus, .plus, .plus⟩, ⟨.minus, .minus, .plus⟩] = [true, false, false] ∧
    decodeTriples (sentTriples [true, false, true]) = [true, false, false] := by decide
theorem witness_AllZeroMessageDecodesToZeros : 1 ≤ (1 : Nat) ∧ (1 : Nat) ≤ 1 := by decide
theorem witness_IsolatedImpulseDecodesExactly : 2 ≤ (2 : Nat) ∧ 2 + 1 + 2 ≤ (5 : Nat) := by decide

end Sys2Proof.Tests
end

namespace Sys2Proof.Machine

/-! ## One step, by what is at the command port -/

theorem step_of_no_word {s : State} (h : s.cmdIn = []) : step s = .next s := by
  simp [step, takeCommand_nil h, waitForCommand]

theorem step_of_decode_ok {s : State} {w : Word16} {rest : List Word16} {i : Instr}
    (h : s.cmdIn = w :: rest) (hd : decode w = .ok i) : step s = exec i { s with cmdIn := rest } := by
  simp [step, takeCommand_cons h, hd]

theorem step_of_decode_error {s : State} {w : Word16} {rest : List Word16} {e : DecodeError}
    (h : s.cmdIn = w :: rest) (hd : decode w = .error e) : step s = illegalWord { s with cmdIn := rest } := by
  simp [step, takeCommand_cons h, hd]

/-! ## Operations that answer once and do not look at the ports

Whatever words `c` are still presented and whatever responses `o` have been given, such an operation leaves `c`,
gives one more response, and neither the response nor the rest of the next state depends on `c` or `o`. The shared
operations of a command pass this on, so each command has it by its own shape. -/

/-- `s` with other ports: `c` the words presented, `o` the responses given. -/
def State.withPorts (s : State) (c : List Word16) (o : List Word32) : State := { s with cmdIn := c, rspOut := o }

@[simp] theorem corePart_withPorts (s : State) (c : List Word16) (o : List Word32) :
    Safety.corePart (s.withPorts c o) = Safety.corePart s := rfl

theorem corePart_eq_iff {s s' : State} :
    Safety.corePart s = Safety.corePart s' ↔ s' = s.withPorts s'.cmdIn s'.rspOut := by
  constructor
  · intro h
    exact congrArg (·.withPorts s'.cmdIn s'.rspOut) h.symm
  · intro h
    rw [h, corePart_withPorts]

/-- On `s` with any ports, `f` gives the one next state and the one response word, added to the ports it found. -/
def AnswersOnce (s : State) (f : State → Result) : Prop :=
  ∃ (t : State) (r : Word32), ∀ c o, f (s.withPorts c o) = .next (t.withPorts c (o ++ [r]))

section
variable {s : State} {k : State → Result}

theorem answersOnce_emit {g : State → State} {r : Word32}
    (hg : ∀ c o, g (s.withPorts c o) = (g s).withPorts c o) : AnswersOnce s fun u => .next ((g u).emit r) :=
  ⟨g s, r, fun c o => by simp only [hg]; rfl⟩

theorem answersOnce_respond {g : State → State} {d : State → BitVec 16}
    (hg : ∀ c o, g (s.withPorts c o) = (g s).withPorts c o := by intros; rfl)
    (hd : ∀ c o, d (s.withPorts c o) = d s := by intros; rfl) : AnswersOnce s fun u => respond (d u) (g u) :=
  ⟨g s, packResponse 0 false (d s), fun c o => by simp only [hg, hd]; rfl⟩

theorem respondMetric_emits (v : Metric) : ∃ r, ∀ s, respondMetric v s = .next (s.emit r) := by
  cases v with
  | unr => exact ⟨_, fun _ => rfl⟩
  | val n => exact ⟨_, fun _ => rfl⟩

theorem answersOnce_respondMetric {v : State → Metric} (hv : ∀ c o, v (s.withPorts c o) = v s := by intros; rfl) :
    AnswersOnce s fun u => respondMetric (v u) u := by
  obtain ⟨r, hr⟩ := respondMetric_emits (v s)
  exact ⟨s, r, fun c o => by simp only [hv, hr]; rfl⟩

theorem answersOnce_raiseFault (c : Cause) : AnswersOnce s (raiseFault c) :=
  answersOnce_emit (g := fun u => u.latch c) fun _ _ => rfl

theorem answersOnce_reject : AnswersOnce s reject := answersOnce_emit (g := id) fun _ _ => rfl

theorem answersOnce_whenRunning (h : AnswersOnce s k) : AnswersOnce s fun u => whenRunning u (k u) := by
  cases hf : s.flt with
  | false =>
    obtain ⟨t, r, hk⟩ := h
    exact ⟨t, r, fun c o => (whenRunning_of_running (s := s.withPorts c o) hf).trans (hk c o)⟩
  | true =>
    obtain ⟨t, r, hr⟩ := answersOnce_reject (s := s)
    exact ⟨t, r, fun c o => (whenRunning_of_faulted (s := s.withPorts c o) hf).trans (hr c o)⟩

theorem answersOnce_require {legal : State → Bool} {cause : Cause}
    (h : AnswersOnce s k) (hl : ∀ c o, legal (s.withPorts c o) = legal s := by intros; rfl) :
    AnswersOnce s fun u => require (legal u) cause u (k u) := by
  cases hs : legal s with
  | true =>
    obtain ⟨t, r, hk⟩ := h
    exact ⟨t, r, fun c o => by simp only [require, hl, hs, if_true, hk]⟩
  | false =>
    obtain ⟨t, r, hr⟩ := answersOnce_raiseFault (s := s) cause
    exact ⟨t, r, fun c o => by simp only [require, hl, hs, Bool.false_eq_true, if_false, hr]⟩

theorem answersOnce_illegalWord : AnswersOnce s illegalWord :=
  answersOnce_whenRunning (answersOnce_raiseFault .illegalCommand)

theorem answersOnce_resetCore (tb : Tables) : AnswersOnce s (resetCore tb) := by
  have hg : ∀ c o, (s.withPorts c o).resetRegs tb = (s.resetRegs tb).withPorts c o := fun _ _ => rfl
  unfold resetCore
  split
  · exact answersOnce_respond hg
  · exact answersOnce_emit hg

/-- Every command answers once and does not look at the ports (10_state.md R47, 30_encoding.md R70). That no check, no
data field and no register update of a command reads a port is left to the lemmas' own `rfl`. -/
theorem answersOnce_exec (i : Instr) (s : State) : AnswersOnce s (exec i) := by
  cases i with
  | coreRst => exact answersOnce_resetCore trellisTables
  | coreStat => exact answersOnce_respond
  | encPad b => exact answersOnce_whenRunning <| answersOnce_require <| answersOnce_require answersOnce_respond
  | encBit b => exact answersOnce_whenRunning <| answersOnce_require answersOnce_respond
  | encEnd => exact answersOnce_whenRunning <| answersOnce_require answersOnce_respond
  | mapTri x => exact answersOnce_whenRunning answersOnce_respond
  | fmrInit => exact answersOnce_whenRunning answersOnce_respond
  | fmrStep y => exact answersOnce_whenRunning <| answersOnce_require <| answersOnce_require answersOnce_respond
  | fmrRdm q => exact answersOnce_whenRunning <| answersOnce_require answersOnce_respondMetric
  | tbStart => exact answersOnce_whenRunning <| answersOnce_require <| answersOnce_require answersOnce_respond
  | tbStep => exact answersOnce_whenRunning <| answersOnce_require answersOnce_respond
  | outRd i => exact answersOnce_whenRunning <| answersOnce_require <| answersOnce_require answersOnce_respond

/-- What `AnswersOnce` says of the ports `s` itself has. -/
theorem AnswersOnce.next (h : AnswersOnce s k) :
    ∃ (t : State) (r : Word32), k s = .next t ∧ t.cmdIn = s.cmdIn ∧ t.rspOut = s.rspOut ++ [r] := by
  obtain ⟨t, r, ht⟩ := h
  exact ⟨t.withPorts s.cmdIn (s.rspOut ++ [r]), r, ht s.cmdIn s.rspOut, rfl, rfl⟩

end

theorem step_answers_word {s : State} {w : Word16} {rest : List Word16} (h : s.cmdIn = w :: rest) :
    ∃ (t : State) (r : Word32), step s = .next t ∧ t.cmdIn = rest ∧ t.rspOut = s.rspOut ++ [r] := by
  cases hd : decode w with
  | ok i =>
    rw [step_of_decode_ok h hd]
    exact (answersOnce_exec i { s with cmdIn := rest }).next
  | error e =>
    rw [step_of_decode_error h hd]
    exact (answersOnce_illegalWord (s := { s with cmdIn := rest })).next

/-! ## Cells a table does not have (log 6) -/

theorem State.writeOut_of_no_cell {s : State} {k : Nat} (h : k = 0 ∨ s.cfg.nmax < k) (b : Bit) :
    s.writeOut k b = s := by
  have hk : ¬(1 ≤ k ∧ k ≤ s.cfg.nmax) := by omega
  simp only [State.writeOut, if_neg hk]

end Sys2Proof.Machine

/-! ## The obligations of 00_scope.md -/

namespace Sys2Proof.Proofs

open Sys2Proof.Machine Sys2Proof.Safety

/-- Settles O8. The queue of presented words is the model's form of the command port (log 2). -/
theorem stepRunsTheDecodedCommand : Obligations.StepRunsTheDecodedCommand :=
  fun _ _ _ _ hport hdecode => step_of_decode_ok hport hdecode

/-- Settles O9, the model's reading of 00_scope.md R14 (log 3). -/
theorem nothingChangesBetweenCommands : Obligations.NothingChangesBetweenCommands :=
  fun _ hport => step_of_no_word hport

/-- Settles O16: the two states are one state with two pairs of ports, and no command looks at the ports. -/
theorem outcomeIndependentOfThePorts : Obligations.OutcomeIndependentOfThePorts := by
  intro i s s' t hcore hexec
  obtain ⟨u, r, hu⟩ := answersOnce_exec i s
  obtain rfl : t = u.withPorts s.cmdIn (s.rspOut ++ [r]) :=
    Host.Outcome.next.inj (hexec.symm.trans (hu s.cmdIn s.rspOut))
  have hexec' : exec i s' = .next (u.withPorts s'.cmdIn (s'.rspOut ++ [r])) := by
    rw [corePart_eq_iff.mp hcore]
    exact hu s'.cmdIn s'.rspOut
  exact ⟨_, r, hexec', rfl, rfl, rfl, rfl, rfl⟩

/-- Settles O19: with no word the core waits, and a word is answered whether it is legal or not. -/
theorem stepNeverStops : Obligations.StepNeverStops := by
  refine ⟨fun s => ?_, fun s w rest hport => step_answers_word hport⟩
  cases hport : s.cmdIn with
  | nil => exact ⟨s, step_of_no_word hport⟩
  | cons w rest =>
    obtain ⟨t, _, hstep, _, _⟩ := step_answers_word hport
    exact ⟨t, hstep⟩

/-- Settles O47: a read answers whatever the cell's address is, and the walk's write is dropped where OUT has no cell. -/
theorem cellOutsideItsTableStopsNothing : Obligations.CellOutsideItsTableStopsNothing := by
  intro s hflt
  refine ⟨fun q hdp _ => ?fmrRdm, fun hdp hk => ?tbStep, fun i hdp hi _ => ?outRd⟩
  case fmrRdm =>
    obtain ⟨r, hr⟩ := respondMetric_emits (s.dCell s.t.toNat q)
    exact ⟨r, execFmrRdm_next.mpr <| .inr <| .inr ⟨hflt, hdp, hr s⟩⟩
  case tbStep =>
    have hmem : s.walked.mem = s.mem := by
      show (s.writeOut s.k.toNat (lbl s.walkEdge)).mem = s.mem
      rw [State.writeOut_of_no_cell hk]
    exact ⟨_, _, execTbStep_next.mpr <| .inr <| .inr ⟨hflt, hdp, rfl⟩, rfl, hflt, hmem⟩
  case outRd =>
    exact ⟨_, execOutRd_next.mpr <| .inr <| .inr <| .inr ⟨hflt, hdp, hi, rfl⟩⟩

end Sys2Proof.Proofs

namespace Sys2Proof

theorem Config.nmax_le (c : Config) : c.nmax ≤ 4096 := c.nmaxLessOne.isLt

end Sys2Proof

namespace Sys2Proof.Machine

/-! ## Metrics, counts, causes and rows -/

theorem madd_ne_unr {a : Metric} {n : Int} : madd a n ≠ .unr ↔ a ≠ .unr := by cases a <;> simp

/-- The winner is reachable when the first candidate is (42_forward_recursion.md R110). -/
theorem selectEdge_reachable {row : Row Metric} {y : Triple Sym} {d : StateNo}
    (h : candidate row y d false ≠ .unr) : (selectEdge row y d).1 ≠ .unr := by
  unfold selectEdge
  split
  · exact h
  · rename_i hlost
    intro hunr
    exact hlost (by rw [show candidate row y d true = .unr from hunr, mge_unr])

theorem Cause.code_latched {c : Cause} (hc : c ≠ .tableInconsistent) :
    c.code ∈ ([1, 2, 4, 5, 6, 7] : List (BitVec 4)) := by
  cases c with
  | tableInconsistent => exact absurd rfl hc
  | lengthZero | padNonZero | sequence | capacity | illegalCommand | indexRange => decide

theorem toNat_count_succ {t : Count} {c : Config} (h : t.toNat < c.nmax) : (t + 1).toNat = t.toNat + 1 := by
  have := Config.nmax_le c
  bv_omega

/-- A forward step leaves the rows up to T as they are. -/
theorem State.dRow_forward (s : State) (y : Triple Sym) {n : Nat} (hn : n ≤ s.t.toNat) :
    (s.forward y).dRow n = s.dRow n := by
  have hcell : ∀ q, (s.forward y).dCell n q = s.dCell n q := fun q => by
    simp only [State.setT_dCell, State.writePRow_dCell, State.dCell_writeDRow, if_neg (show n ≠ s.t.toNat + 1 by omega)]
  exact congrArg Row.ofFn (funext hcell)

/-! ## The three ways a command ends -/

/-- `i`, once its checks have passed in `s`, leaves `u`; its response is still to be given. -/
inductive Completes : Instr → State → State → Prop where
  | coreRst {s : State} : Completes .coreRst s (s.resetRegs trellisTables)
  | coreStat {s : State} : Completes .coreStat s s
  | encPad {s : State} (hep : s.ep ≠ 2) : Completes (.encPad false) s ((s.shiftIn false).setEp (s.ep + 1))
  | encBit {s : State} {b : Bit} (hep : s.ep = 2) : Completes (.encBit b) s (s.shiftIn b).setEne
  | encEnd {s : State} (hene : s.ene = true) : Completes .encEnd s (s.setEp 0).clearEne
  | mapTri {s : State} {x : Triple Bit} : Completes (.mapTri x) s s
  | fmrInit {s : State} : Completes .fmrInit s (((s.writeDRow 0 initRow).setT 0).setDp .fwd)
  | fmrStep {s : State} {y : Triple Sym} (hdp : s.dp = .fwd) (ht : s.t.toNat < s.cfg.nmax) :
      Completes (.fmrStep y) s (s.forward y)
  | fmrRdm {s : State} {q : StateNo} (hdp : s.dp ≠ .idle) : Completes (.fmrRdm q) s s
  | tbStart {s : State} (hdp : s.dp = .fwd) (ht : s.t ≠ 0) :
      Completes .tbStart s (((s.setCur 0).setK s.t).setDp .tb)
  | tbStep {s : State} (hdp : s.dp = .tb) : Completes .tbStep s s.walked
  | outRd {s : State} {i : BitVec 12} (hdp : s.dp = .done) (hi : i.setWidth 13 < s.t) : Completes (.outRd i) s s

/-- The result `r` of a command from `s` is a rejection, a fault or the answer from a state that meets `P`. No command
faults with TableInconsistent: reset alone can, and not with this hardware's tables (60_exceptions.md R163). -/
inductive EndsIn (P : State → Prop) (s : State) : Result → Prop where
  | rejected (hflt : s.flt = true) : EndsIn P s (.next s.rejected)
  | faulted (c : Cause) (hc : c ≠ .tableInconsistent) : EndsIn P s (.next (s.faulted c))
  | completed (u : State) (r : Word32) (hu : P u) : EndsIn P s (.next (u.emit r))

section
variable {P : State → Prop} {s : State} {k : Result}

theorem endsIn_whenRunning (h : EndsIn P s k) : EndsIn P s (whenRunning s k) := by
  cases hflt : s.flt with
  | false => rwa [whenRunning_of_running hflt]
  | true => rw [whenRunning_of_faulted hflt]; exact .rejected hflt

theorem endsIn_require {legal : Bool} {c : Cause} (h : legal = true → EndsIn P s k)
    (hc : c ≠ .tableInconsistent := by decide) : EndsIn P s (require legal c s k) := by
  cases legal with
  | false => exact .faulted c hc
  | true => exact h rfl

theorem endsIn_illegalWord : EndsIn P s (illegalWord s) :=
  endsIn_whenRunning (.faulted .illegalCommand (by decide))

theorem endsIn_respond {u : State} {d : BitVec 16} (h : P u) : EndsIn P s (respond d u) := .completed u _ h

theorem endsIn_respondMetric {v : Metric} {u : State} (h : P u) : EndsIn P s (respondMetric v u) := by
  obtain ⟨r, hr⟩ := respondMetric_emits v
  exact hr u ▸ .completed u r h

end

/-- Every command is rejected, faults or completes. -/
theorem exec_endsIn (i : Instr) (s : State) : EndsIn (Completes i s) s (exec i s) := by
  cases i with
  | coreRst =>
    have hreset : exec .coreRst s = .next ((s.resetRegs trellisTables).answered 0) := execCoreRst_next.mpr rfl
    exact hreset ▸ .completed _ _ .coreRst
  | coreStat => exact endsIn_respond .coreStat
  | encPad b =>
    refine endsIn_whenRunning <| endsIn_require fun hep => endsIn_require fun hb => endsIn_respond ?_
    obtain rfl : b = false := by simpa using hb
    exact .encPad (of_decide_eq_true hep)
  | encBit b => exact endsIn_whenRunning <| endsIn_require fun hep => endsIn_respond (.encBit (of_decide_eq_true hep))
  | encEnd => exact endsIn_whenRunning <| endsIn_require fun hene => endsIn_respond (.encEnd hene)
  | mapTri x => exact endsIn_whenRunning <| endsIn_respond .mapTri
  | fmrInit => exact endsIn_whenRunning <| endsIn_respond .fmrInit
  | fmrStep y =>
    exact endsIn_whenRunning <| endsIn_require fun hdp => endsIn_require fun ht =>
      endsIn_respond (.fmrStep (of_decide_eq_true hdp) (of_decide_eq_true ht))
  | fmrRdm q =>
    exact endsIn_whenRunning <| endsIn_require fun hdp => endsIn_respondMetric (.fmrRdm (of_decide_eq_true hdp))
  | tbStart =>
    exact endsIn_whenRunning <| endsIn_require fun hdp => endsIn_require fun ht =>
      endsIn_respond (.tbStart (of_decide_eq_true hdp) (of_decide_eq_true ht))
  | tbStep => exact endsIn_whenRunning <| endsIn_require fun hdp => endsIn_respond (.tbStep (of_decide_eq_true hdp))
  | outRd i =>
    exact endsIn_whenRunning <| endsIn_require fun hdp => endsIn_require fun hi =>
      endsIn_respond (.outRd (of_decide_eq_true hdp) (of_decide_eq_true hi))

end Sys2Proof.Machine

namespace Sys2Proof.Safety

open Sys2Proof.Machine

theorem phaseNat_eq (p : Phase) : phaseNat p = p.code.toNat := by cases p <;> rfl

/-! ## What the invariant says of the tables -/

section
variable {s : State}

/-- Row n + 1 came from row n by one forward step (42_forward_recursion.md R112). -/
theorem Inv.forward_cells (h : Inv s) (hdp : s.dp ≠ .idle) {n : Nat} (hn : n < s.t.toNat) :
    ∃ y, ∀ q, s.dCell (n + 1) q = (selectEdge (s.dRow n) y q).1 ∧ s.pCell (n + 1) q = (selectEdge (s.dRow n) y q).2 := by
  obtain ⟨y, hy⟩ := h.rowsForward hdp n hn
  refine ⟨y, fun q => ?_⟩
  obtain ⟨hd, hp⟩ := hy q
  simp [State.dCell, State.pCell, hd, hp]

/-- The metric of row n + 1 is that of the cell its code points back to, plus one branch metric. -/
theorem Inv.dCell_succ (h : Inv s) (hdp : s.dp ≠ .idle) {n : Nat} (hn : n < s.t.toNat) :
    ∃ y, ∀ q, s.dCell (n + 1) q = madd (s.dCell n (org (edgeNo q (s.pCell (n + 1) q))))
      (branchMetric y (edgeNo q (s.pCell (n + 1) q))) := by
  obtain ⟨y, hy⟩ := h.forward_cells hdp hn
  refine ⟨y, fun q => ?_⟩
  obtain ⟨hd, hp⟩ := hy q
  rw [hd, hp, selectEdge_fst, candidate, State.dRow_get]

theorem Inv.dCell_zero (h : Inv s) (hdp : s.dp ≠ .idle) (q : StateNo) : s.dCell 0 q = initRow.get q := by
  simp [State.dCell, h.rowZero hdp q]

/-- R49 (h): state 0 is reachable at every step, by the edge from state 0 to itself. -/
theorem Inv.stateZero_reachable (h : Inv s) (hdp : s.dp ≠ .idle) {n : Nat} (hn : n ≤ s.t.toNat) :
    s.dCell n 0 ≠ .unr := by
  induction n with
  | zero => rw [h.dCell_zero hdp]; decide
  | succ n ih =>
    obtain ⟨y, hy⟩ := h.forward_cells hdp hn
    rw [(hy 0).1]
    refine selectEdge_reachable (madd_ne_unr.mpr ?_)
    rw [State.dRow_get, show org (edgeNo 0 false) = 0 by decide]
    exact ih (Nat.le_of_succ_le hn)

/-- The code of a reachable cell points back to a reachable cell (43_traceback.md R131). -/
theorem Inv.origin_reachable (h : Inv s) (hdp : s.dp ≠ .idle) {n : Nat} {q : StateNo} (hn : n < s.t.toNat)
    (hq : s.dCell (n + 1) q ≠ .unr) : s.dCell n (org (edgeNo q (s.pCell (n + 1) q))) ≠ .unr := by
  obtain ⟨y, hy⟩ := h.dCell_succ hdp hn
  exact madd_ne_unr.mp (hy q ▸ hq)

theorem Inv.dCell_written (h : Inv s) (hdp : s.dp ≠ .idle) {n : Nat} (hn : n ≤ s.t.toNat) (q : StateNo) :
    ∃ v, readCell s.mem.d (cellAddr n q) = some v := by
  cases n with
  | zero => exact ⟨_, h.rowZero hdp q⟩
  | succ n =>
    obtain ⟨y, hy⟩ := h.rowsForward hdp n hn
    exact ⟨_, (hy q).1⟩

theorem Inv.pCell_written (h : Inv s) (hdp : s.dp ≠ .idle) {n : Nat} (h1 : 1 ≤ n) (hn : n ≤ s.t.toNat) (q : StateNo) :
    ∃ v, readCell s.mem.p (cellAddr n q) = some v := by
  obtain ⟨n, rfl⟩ := Nat.exists_eq_add_of_le' h1
  obtain ⟨y, hy⟩ := h.rowsForward hdp n hn
  exact ⟨_, (hy q).2⟩

/-! ## Every step keeps the invariant -/

/-- The ports stand in no field of the invariant. -/
theorem Inv.emit (h : Inv s) (r : Word32) : Inv (s.emit r) := { h with }

theorem Inv.withCmdIn (h : Inv s) (ws : List Word16) : Inv { s with cmdIn := ws } := { h with }

theorem Inv.faulted (h : Inv s) {c : Cause} (hc : c ≠ .tableInconsistent) : Inv (s.faulted c) :=
  { h with latch := .inr ⟨rfl, Cause.code_latched hc⟩ }

/-- A state with the reset values of 10_state.md R41, whatever the ports, the reset count and CUR and K hold. -/
theorem inv_of_cleared (hmem : s.mem = Memory.unspecified) (hep : s.ep = 0) (hene : s.ene = false) (ht : s.t = 0)
    (hdp : s.dp = .idle) (hflt : s.flt = false) (hcause : s.cause = 0) : Inv s where
  memWf := hmem ▸ memory_unspecified_wf _
  epLe := by simp [hep]
  eneEp := by simp [hene]
  onePad := by simp [hep]
  padsClear := by simp [hep]
  tLe := by simp [ht]
  idleT _ := ht
  tbK := by simp [hdp]
  doneK := by simp [hdp]
  rowZero := absurd hdp
  rowsForward := absurd hdp
  walkReachable := by simp [hdp]
  outWritten := by simp [hdp]
  latch := .inl ⟨hflt, hcause⟩

/-- Two pads of 0 clear M: the first leaves m1 = 0, the second moves it to m0 (40_encoder.md R91). -/
theorem Inv.encPad (h : Inv s) (hep : s.ep ≠ 2) : Inv ((s.shiftIn false).setEp (s.ep + 1)) := by
  have hcount : s.ep = 0 ∨ s.ep = 1 := by have := h.epLe; bv_omega
  have hm1 : ∀ b : Bit, stateM1 (BitVec.ofBool false ++ BitVec.ofBool b : BitVec (1 + 1)) = false := by decide
  exact
    { h with
      epLe := by rcases hcount with h0 | h0 <;> simp [h0]
      eneEp := fun hene => absurd (h.eneEp hene) hep
      onePad := fun _ => hm1 _
      padsClear := fun hep2 _ => by
        have hep1 : s.ep = 1 := by simp at hep2; bv_omega
        rw [State.setEp_m, State.shiftIn_m, h.onePad hep1]; decide }

theorem Inv.encBit (h : Inv s) (hep : s.ep = 2) (b : Bit) : Inv (s.shiftIn b).setEne :=
  { h with
    eneEp := fun _ => hep
    onePad := fun hep1 => absurd (hep.symm.trans hep1) (by decide)
    padsClear := fun _ hene => absurd hene (by simp) }

theorem Inv.encEnd (h : Inv s) : Inv (s.setEp 0).clearEne :=
  { h with
    epLe := by simp
    eneEp := fun hene => absurd hene (by simp)
    onePad := fun hep => absurd hep (by simp)
    padsClear := fun hep => absurd hep (by simp) }

theorem Inv.fmrInit (h : Inv s) : Inv (((s.writeDRow 0 initRow).setT 0).setDp .fwd) :=
  { h with
    memWf := wf_writeDRow _ h.memWf (Nat.zero_le _)
    tLe := by simp
    idleT := fun _ => rfl
    tbK := fun hdp => by simp at hdp
    doneK := fun hdp => by simp at hdp
    rowZero := fun _ q => by simp [readCell_writeRow]
    rowsForward := fun _ n hn => by simp at hn
    walkReachable := fun hdp => by simp at hdp
    outWritten := fun hdp => by simp at hdp }

/-- The new row is one step of the recursion on row T. -/
theorem Inv.fmrStep (h : Inv s) (y : Triple Sym) (hdp : s.dp = .fwd) (ht : s.t.toNat < s.cfg.nmax) :
    Inv (s.forward y) := by
  have hfwd : s.dp ≠ .idle := by simp [hdp]
  have htnext : (s.forward y).t.toNat = s.t.toNat + 1 := toNat_count_succ ht
  have hd : ∀ n q, readCell (s.forward y).mem.d (cellAddr n q) =
      if n = s.t.toNat + 1 then some (selectEdge (s.dRow s.t.toNat) y q).1 else readCell s.mem.d (cellAddr n q) :=
    fun n q => by simp [readCell_writeRow, Row.get_map, forwardRow_get]
  have hp : ∀ n q, readCell (s.forward y).mem.p (cellAddr n q) =
      if n = s.t.toNat + 1 then some (selectEdge (s.dRow s.t.toNat) y q).2 else readCell s.mem.p (cellAddr n q) :=
    fun n q => by simp [readCell_writeRow, Row.get_map, forwardRow_get]
  exact
    { h with
      memWf := wf_writePRow _ (wf_writeDRow _ h.memWf ht) (Nat.le_add_left _ _) ht
      tLe := htnext ▸ ht
      idleT := fun hidle => absurd hidle hfwd
      tbK := fun htb => by simp [hdp] at htb
      doneK := fun hdone => by simp [hdp] at hdone
      rowZero := fun _ q => by rw [hd, if_neg (by omega)]; exact h.rowZero hfwd q
      rowsForward := fun _ n hn => by
        rw [htnext] at hn
        rw [s.dRow_forward y (by omega)]
        simp only [hd, hp, Nat.add_right_cancel_iff]
        by_cases hlast : n = s.t.toNat
        · exact ⟨y, fun q => by simp [hlast]⟩
        · simp only [if_neg hlast]
          exact h.rowsForward hfwd n (by omega)
      walkReachable := fun htb => by simp [hdp] at htb
      outWritten := fun hwalk => by simp [hdp] at hwalk }

/-- The walk starts on a reachable cell because state 0 is one in every row. -/
theorem Inv.tbStart (h : Inv s) (hdp : s.dp = .fwd) (ht : s.t ≠ 0) : Inv (((s.setCur 0).setK s.t).setDp .tb) := by
  have hfwd : s.dp ≠ .idle := by simp [hdp]
  exact
    { h with
      idleT := fun hidle => by simp at hidle
      tbK := fun _ => ⟨by simp; bv_omega, le_refl _⟩
      doneK := fun hdone => by simp at hdone
      rowZero := fun _ => h.rowZero hfwd
      rowsForward := fun _ => h.rowsForward hfwd
      walkReachable := fun _ => h.stateZero_reachable hfwd (le_refl _)
      outWritten := fun _ i hk hi => absurd hk (Nat.not_le.mpr hi) }

/-- In row 0 state 0 is the only reachable one. -/
theorem Inv.stateZero_of_reachable (h : Inv s) (hdp : s.dp ≠ .idle) {q : StateNo} (hq : s.dCell 0 q ≠ .unr) : q = 0 := by
  rw [h.dCell_zero hdp] at hq
  revert q; decide

/-- The walk moves to the origin of the winning edge, which is reachable because the cell it leaves is; in row 0 that
makes it state 0 (43_traceback.md R131). -/
theorem Inv.tbStep (h : Inv s) (hdp : s.dp = .tb) : Inv s.walked := by
  have hrun : s.dp ≠ .idle := by simp [hdp]
  obtain ⟨hk1, hkt⟩ := h.tbK hdp
  have hknext : s.nextK.toNat = s.k.toNat - 1 := State.nextK_toNat hk1
  have hcur : s.dCell s.nextK.toNat (org s.walkEdge) ≠ .unr := by
    have hback := h.origin_reachable hrun (n := s.k.toNat - 1) (q := s.cur) (by omega)
    rw [Nat.sub_add_cancel hk1] at hback
    exact hknext ▸ hback (h.walkReachable hdp)
  have hphase : s.walked.dp = if s.nextK = 0 then .done else .tb := rfl
  have hnotIdle : s.walked.dp ≠ .idle := by rw [hphase]; split <;> simp
  exact
    { h with
      memWf := State.writeOut_wf s.k.toNat (lbl s.walkEdge) h.memWf rfl
      idleT := fun hidle => absurd hidle hnotIdle
      tbK := fun htb => by
        have hk0 : s.nextK ≠ 0 := fun h0 => by simp [h0] at htb
        exact ⟨show 1 ≤ s.nextK.toNat by bv_omega, show s.nextK.toNat ≤ s.t.toNat by omega⟩
      doneK := fun hdone => by
        have hk0 : s.nextK = 0 := by_contra fun h0 => by simp at hdone; exact h0 hdone
        refine ⟨hk0, hk1.trans hkt, h.stateZero_of_reachable hrun ?_⟩
        rwa [hk0] at hcur
      rowZero := fun _ => h.rowZero hrun
      rowsForward := fun _ => h.rowsForward hrun
      walkReachable := fun _ => hcur
      outWritten := fun _ i (hi : s.nextK.toNat ≤ i) hit => by
        have hcell : 1 ≤ s.k.toNat ∧ s.k.toNat ≤ s.cfg.nmax := ⟨hk1, hkt.trans h.tLe⟩
        simp only [State.setDp_mem, State.setK_mem, State.setCur_mem, State.writeOut_mem, if_pos hcell,
          readCell_writeCell]
        split
        · exact ⟨_, rfl⟩
        · exact h.outWritten (.inl hdp) i (by omega) hit }

theorem Inv.completes (h : Inv s) {i : Instr} {u : State} (hu : Completes i s u) : Inv u := by
  cases hu with
  | coreRst => exact inv_of_cleared rfl rfl rfl rfl rfl rfl rfl
  | coreStat | mapTri | fmrRdm | outRd => exact h
  | encPad hep => exact h.encPad hep
  | encBit hep => exact h.encBit hep _
  | encEnd => exact h.encEnd
  | fmrInit => exact h.fmrInit
  | fmrStep hdp ht => exact h.fmrStep _ hdp ht
  | tbStart hdp ht => exact h.tbStart hdp ht
  | tbStep hdp => exact h.tbStep hdp

theorem Inv.endsIn (h : Inv s) {P : State → Prop} {k : Result} {t : State} (hk : EndsIn P s k)
    (hP : ∀ u, P u → Inv u) (ht : k = .next t) : Inv t := by
  subst ht
  cases hk with
  | rejected => exact h.emit _
  | faulted c hc => exact h.faulted hc
  | completed u r hu => exact (hP u hu).emit r

theorem Inv.step (h : Inv s) {t : State} (hstep : step s = .next t) : Inv t := by
  obtain ⟨-, hs⟩ | ⟨w, rest, i, -, -, hs⟩ | ⟨w, rest, e, -, -, hs⟩ := step_cases s <;> rw [hs] at hstep
  · cases hstep
    exact h
  · exact (h.withCmdIn rest).endsIn (exec_endsIn i _) (fun u => (h.withCmdIn rest).completes) hstep
  · exact (h.withCmdIn rest).endsIn (endsIn_illegalWord (P := fun _ => False)) (fun _ => False.elim) hstep

theorem Reachable.inv (h : Reachable s) : Inv s := by
  induction h with
  | reset c => exact inv_of_cleared rfl rfl rfl rfl rfl rfl rfl
  | present w _ ih => exact ih.withCmdIn _
  | step _ hstep ih => exact ih.step hstep

/-- An integer metric of row n lies in -3n..3n: every step adds one branch metric (42_forward_recursion.md R109). -/
theorem Inv.dCell_bound (h : Inv s) (hdp : s.dp ≠ .idle) {n : Nat} {q : StateNo} {v : Int} (hn : n ≤ s.t.toNat)
    (hv : s.dCell n q = .val v) : -3 * (n : Int) ≤ v ∧ v ≤ 3 * (n : Int) := by
  induction n generalizing q v with
  | zero =>
    have hzero : ∀ q, initRow.get q = .val 0 ∨ initRow.get q = .unr := by decide
    rw [h.dCell_zero hdp] at hv
    obtain h0 | h0 := hzero q <;> rw [h0] at hv <;> cases hv
    simp
  | succ n ih =>
    obtain ⟨y, hy⟩ := h.dCell_succ hdp hn
    rw [hy q] at hv
    cases hold : s.dCell n (org (edgeNo q (s.pCell (n + 1) q))) with
    | unr => simp [hold] at hv
    | val v₀ =>
      obtain ⟨hlo, hhi⟩ := ih (Nat.le_of_succ_le hn) hold
      obtain ⟨blo, bhi⟩ := branchMetric_bound y (edgeNo q (s.pCell (n + 1) q))
      rw [hold, madd_val, Metric.val.injEq] at hv
      push_cast
      omega

end

end Sys2Proof.Safety

namespace Sys2Proof.Machine

/-! ## What a command does not look at -/

/-- A change of some part of the state that is neither FLT nor in the way of recording a response or a fault. -/
structure Change where
  apply : State → State
  flt : ∀ s, (apply s).flt = s.flt := by intros; rfl
  emit : ∀ s r, apply (s.emit r) = (apply s).emit r := by intros; rfl
  latch : ∀ s c, apply (s.latch c) = (apply s).latch c := by intros; rfl

/-- `f` neither reads nor writes what `σ` changes: from the changed state it runs as from `s`, up to that change. -/
def Respects (σ : Change) (f : State → Result) (s : State) : Prop :=
  ∃ t, f s = .next t ∧ f (σ.apply s) = .next (σ.apply t)

section
variable {σ : Change} {s : State} {k : State → Result}

theorem Respects.of_next (h : Respects σ k s) {t : State} (ht : k s = .next t) :
    k (σ.apply s) = .next (σ.apply t) := by
  obtain ⟨t', ht', hσ⟩ := h
  obtain rfl : t = t' := Host.Outcome.next.inj (ht.symm.trans ht')
  exact hσ

theorem respects_respond {g : State → State} {d : State → BitVec 16} (hg : g (σ.apply s) = σ.apply (g s) := by rfl)
    (hd : d (σ.apply s) = d s := by rfl) : Respects σ (fun u => respond (d u) (g u)) s :=
  ⟨_, rfl, by simp only [hg, hd, σ.emit]; rfl⟩

theorem respects_respondMetric {v : State → Metric} (hv : v (σ.apply s) = v s := by rfl) :
    Respects σ (fun u => respondMetric (v u) u) s := by
  obtain ⟨r, hr⟩ := respondMetric_emits (v s)
  exact ⟨_, hr s, by simp only [hv, hr, σ.emit]⟩

theorem respects_raiseFault (c : Cause) : Respects σ (raiseFault c) s :=
  ⟨_, rfl, by rw [σ.emit, σ.latch]; rfl⟩

theorem respects_whenRunning (h : Respects σ k s) : Respects σ (fun u => whenRunning u (k u)) s := by
  cases hflt : s.flt with
  | false =>
    obtain ⟨t, ht, hσ⟩ := h
    exact ⟨t, (whenRunning_of_running hflt).trans ht, (whenRunning_of_running ((σ.flt s).trans hflt)).trans hσ⟩
  | true =>
    refine ⟨_, whenRunning_of_faulted hflt, ?_⟩
    rw [σ.emit]
    exact whenRunning_of_faulted ((σ.flt s).trans hflt)

theorem respects_require {legal : State → Bool} {c : Cause} (h : legal s = true → Respects σ k s)
    (hl : legal (σ.apply s) = legal s := by rfl) : Respects σ (fun u => require (legal u) c u (k u)) s := by
  cases hs : legal s with
  | true => simpa only [Respects, require, hl, hs, if_true] using h hs
  | false => simpa only [Respects, require, hl, hs, Bool.false_eq_true, if_false] using respects_raiseFault c

theorem respects_illegalWord : Respects σ illegalWord s := respects_whenRunning (respects_raiseFault .illegalCommand)

end

/-! ## The two sides of CORE -/

/-- The encoder side is M, EP and ENE; the decoder side is the decoder's registers and tables, the words presented, the
configuration and the reset count. The latch and the responses are on neither side (10_state.md R20). -/
inductive Side where
  | encoder
  | decoder

def Side.other : Side → Side
  | .encoder => .decoder
  | .decoder => .encoder

@[simp] theorem Side.other_other (d : Side) : d.other.other = d := by cases d <;> rfl

/-- The commands that work on a side. -/
def Side.runs : Side → Instr → Bool
  | .encoder, i => Safety.isEncoder i
  | .decoder, i => Safety.isForward i || Safety.isTraceback i

/-- `s` with side `d` taken from `u`. -/
def State.withSide (s : State) (d : Side) (u : State) : State :=
  match d with
  | .encoder => { s with m := u.m, ep := u.ep, ene := u.ene }
  | .decoder =>
    { s with
      t := u.t, dp := u.dp, cur := u.cur, k := u.k, mem := u.mem, cmdIn := u.cmdIn, cfg := u.cfg, resets := u.resets }

section
variable (s u : State) (d : Side)

@[simp] theorem State.withSide_self : s.withSide d s = s := by cases d <;> rfl

@[simp] theorem State.withSide_withSide_self : s.withSide d (u.withSide d s) = s := by cases d <;> rfl

@[simp] theorem State.withSide_rspOut : (s.withSide d u).rspOut = s.rspOut := by cases d <;> rfl

/-- Two states with the same latch differ by their sides only. -/
theorem corePart_withSide {s u : State} (h : Safety.SameLatch s u) :
    Safety.corePart (u.withSide d s) = Safety.corePart (s.withSide d.other u) := by
  obtain ⟨hflt, hcause⟩ := h
  cases d <;> simp [State.withSide, Safety.corePart, Side.other, hflt, hcause]

/-- Taking a side from `u` is a change. -/
def Change.side : Change where
  apply s := s.withSide d u
  flt _ := by cases d <;> rfl
  emit _ _ := by cases d <;> rfl
  latch _ _ := by cases d <;> rfl

end

/-- A command neither reads nor writes the side it does not work on. -/
theorem exec_respects_other_side {d : Side} {i : Instr} (hi : d.runs i = true) (u s : State) :
    Respects (.side u d.other) (exec i) s := by
  match d, i, hi with
  | .encoder, .encPad b, _ =>
    exact respects_whenRunning <| respects_require fun _ => respects_require fun _ => respects_respond
  | .encoder, .encBit b, _ => exact respects_whenRunning <| respects_require fun _ => respects_respond
  | .encoder, .encEnd, _ => exact respects_whenRunning <| respects_require fun _ => respects_respond
  | .decoder, .fmrInit, _ => exact respects_whenRunning respects_respond
  | .decoder, .fmrStep y, _ =>
    exact respects_whenRunning <| respects_require fun _ => respects_require fun _ => respects_respond
  | .decoder, .fmrRdm q, _ => exact respects_whenRunning <| respects_require fun _ => respects_respondMetric
  | .decoder, .tbStart, _ =>
    exact respects_whenRunning <| respects_require fun _ => respects_require fun _ => respects_respond
  | .decoder, .tbStep, _ => exact respects_whenRunning <| respects_require fun _ => respects_respond
  | .decoder, .outRd i, _ =>
    exact respects_whenRunning <| respects_require fun _ => respects_require fun _ => respects_respond

section
variable {d : Side} {i : Instr} {s t : State}

theorem exec_withSide_other (hi : d.runs i = true) (h : exec i s = .next t) (u : State) :
    exec i (s.withSide d.other u) = .next (t.withSide d.other u) :=
  (exec_respects_other_side hi u s).of_next h

/-- What a command leaves unchanged. -/
theorem withSide_other_of_exec (hi : d.runs i = true) (h : exec i s = .next t) : t.withSide d.other s = t := by
  have hs := exec_withSide_other hi h s
  rw [State.withSide_self, h] at hs
  exact (Host.Outcome.next.inj hs).symm

theorem Completes.sameLatch (h : Completes i s t) (hi : i ≠ .coreRst) : Safety.SameLatch s t := by
  cases h with
  | coreRst => exact absurd rfl hi
  | coreStat | encPad | encBit | encEnd | mapTri | fmrInit | fmrStep | fmrRdm | tbStart | tbStep | outRd =>
    exact ⟨rfl, rfl⟩

/-- A command that does not fault leaves the latch alone. -/
theorem sameLatch_of_exec (hi : i ≠ .coreRst) (h : exec i s = .next t) (hflt : t.flt = false) :
    Safety.SameLatch s t := by
  have hend := exec_endsIn i s
  rw [h] at hend
  cases hend with
  | rejected => exact ⟨rfl, rfl⟩
  | faulted => simp at hflt
  | completed u r hu => exact hu.sameLatch hi

theorem Side.ne_coreRst_of_runs (hi : d.runs i = true) : i ≠ .coreRst := by
  rintro rfl
  cases d <;> exact absurd hi (by decide)

/-- 20_memory.md R67: neighbouring commands of the two sides that do not fault commute. -/
theorem exec_commute {a b : Instr} {s₁ s₂ : State} (ha : d.runs a = true) (hb : d.other.runs b = true)
    (h₁ : exec a s = .next s₁) (hflt₁ : s₁.flt = false) (h₂ : exec b s₁ = .next s₂) (hflt₂ : s₂.flt = false) :
    ∃ ra rb t₁ t₂, exec b s = .next t₁ ∧ exec a t₁ = .next t₂ ∧
      s₁.rspOut = s.rspOut ++ [ra] ∧ s₂.rspOut = s.rspOut ++ [ra, rb] ∧
      t₁.rspOut = s.rspOut ++ [rb] ∧ t₂.rspOut = s.rspOut ++ [rb, ra] ∧ Safety.corePart t₂ = Safety.corePart s₂ := by
  have hlatch₁ := sameLatch_of_exec (Side.ne_coreRst_of_runs ha) h₁ hflt₁
  have hlatch₂ := sameLatch_of_exec (Side.ne_coreRst_of_runs hb) h₂ hflt₂
  have hlatch : Safety.SameLatch s s₂ := ⟨hlatch₂.1.trans hlatch₁.1, hlatch₂.2.trans hlatch₁.2⟩
  have hframeA : s₁.withSide d.other s = s₁ := withSide_other_of_exec ha h₁
  have hframeB : s₂.withSide d s₁ = s₂ := by simpa using withSide_other_of_exec hb h₂
  -- `b` runs from `s` as from `s₁`, which differs from `s` on the side of `a` only
  have hcore₁ : Safety.corePart (s₁.withSide d s) = Safety.corePart s := by
    rw [corePart_withSide d hlatch₁, ← hframeA, State.withSide_withSide_self]
  have hb₁ : exec b (s₁.withSide d s) = .next (s₂.withSide d s) := by simpa using exec_withSide_other hb h₂ s
  obtain ⟨t₁, rb, ht₁, hcoreT₁, hrsp₂, hrspT₁, -⟩ := Proofs.outcomeIndependentOfThePorts b _ s _ hcore₁ hb₁
  -- `a` runs from there as from `s`
  have hcore₂ : Safety.corePart (s.withSide d.other s₂) = Safety.corePart t₁ :=
    (corePart_withSide d hlatch).symm.trans hcoreT₁
  obtain ⟨t₂, ra, ht₂, hcoreT₂, hrsp₁, hrspT₂, -⟩ :=
    Proofs.outcomeIndependentOfThePorts a _ t₁ _ hcore₂ (exec_withSide_other ha h₁ s₂)
  have hcore : Safety.corePart t₂ = Safety.corePart s₂ := by
    rw [← hcoreT₂, ← corePart_withSide d hlatch₂, hframeB]
  simp only [State.withSide_rspOut] at hrsp₁ hrsp₂
  exact ⟨ra, rb, t₁, t₂, ht₁, ht₂, hrsp₁, by simp [hrsp₂, hrsp₁], hrspT₁, by simp [hrspT₂, hrspT₁], hcore⟩

end

end Sys2Proof.Machine

namespace Sys2Proof.Safety

open Sys2Proof.Machine

/-! ## The free values of unwritten cells -/

/-- Taking the free values that `n` resets select is a change. -/
def freeValues (n : Nat) : Change where
  apply s := { s with resets := n }

section
variable {s : State}

theorem Inv.dCell_freeValues (h : Inv s) (hdp : s.dp ≠ .idle) {t : Nat} (ht : t ≤ s.t.toNat) (n : Nat) (q : StateNo) :
    ((freeValues n).apply s).dCell t q = s.dCell t q := by
  obtain ⟨v, hv⟩ := h.dCell_written hdp ht q
  simp [State.dCell, freeValues, hv]

theorem Inv.forward_freeValues (h : Inv s) (hdp : s.dp = .fwd) (n : Nat) (y : Triple Sym) :
    ((freeValues n).apply s).forward y = (freeValues n).apply (s.forward y) := by
  have hrow : ((freeValues n).apply s).dRow s.t.toNat = s.dRow s.t.toNat :=
    congrArg Row.ofFn (funext (h.dCell_freeValues (by simp [hdp]) (le_refl _) n))
  show (State.setT (State.writePRow (State.writeDRow _ _ ((forwardRow (State.dRow _ s.t.toNat) y).map _)) _
    ((forwardRow (State.dRow _ s.t.toNat) y).map _)) _) = _
  rw [hrow]
  rfl

theorem Inv.walkEdge_freeValues (h : Inv s) (hdp : s.dp = .tb) (n : Nat) :
    ((freeValues n).apply s).walkEdge = s.walkEdge := by
  obtain ⟨hk1, hkt⟩ := h.tbK hdp
  obtain ⟨b, hb⟩ := h.pCell_written (by simp [hdp]) hk1 hkt s.cur
  simp [State.walkEdge, State.pCell, freeValues, hb]

theorem Inv.nextK_freeValues (h : Inv s) (hdp : s.dp = .tb) (n : Nat) :
    ((freeValues n).apply s).nextK = s.nextK := by
  have hk1 := (h.tbK hdp).1
  exact (State.nextK_of_pos (s := (freeValues n).apply s) hk1).trans (State.nextK_of_pos hk1).symm

theorem Inv.outCell_freeValues (h : Inv s) (hdp : s.dp = .done) {i : Nat} (hi : i < s.t.toNat) (n : Nat) :
    ((freeValues n).apply s).outCell i = s.outCell i := by
  obtain ⟨hk0, -, -⟩ := h.doneK hdp
  obtain ⟨b, hb⟩ := h.outWritten (.inr hdp) i (by simp [hk0]) hi
  simp [State.outCell, freeValues, hb]

theorem toNat_lt_of_setWidth_lt {i : BitVec 12} {t : Count} (h : i.setWidth 13 < t) : i.toNat < t.toNat := by
  bv_omega

/-- A command reads written cells only: row T of D, cell (K, CUR) of P, OUT below T. -/
theorem Inv.exec_respects_freeValues (h : Inv s) (n : Nat) {i : Instr} (hi : i ≠ .coreRst) :
    Respects (freeValues n) (exec i) s := by
  cases i with
  | coreRst => exact absurd rfl hi
  | coreStat => exact respects_respond
  | encPad b => exact respects_whenRunning <| respects_require fun _ => respects_require fun _ => respects_respond
  | encBit b => exact respects_whenRunning <| respects_require fun _ => respects_respond
  | encEnd => exact respects_whenRunning <| respects_require fun _ => respects_respond
  | mapTri x => exact respects_whenRunning respects_respond
  | fmrInit => exact respects_whenRunning respects_respond
  | fmrStep y =>
    exact respects_whenRunning <| respects_require fun hdp => respects_require fun _ =>
      respects_respond (h.forward_freeValues (of_decide_eq_true hdp) n y)
  | fmrRdm q =>
    exact respects_whenRunning <| respects_require fun hdp =>
      respects_respondMetric (h.dCell_freeValues (of_decide_eq_true hdp) (le_refl _) n q)
  | tbStart => exact respects_whenRunning <| respects_require fun _ => respects_require fun _ => respects_respond
  | tbStep =>
    refine respects_whenRunning <| respects_require fun hdp => ?_
    have hedge := h.walkEdge_freeValues (of_decide_eq_true hdp) n
    have hk := h.nextK_freeValues (of_decide_eq_true hdp) n
    exact respects_respond (by simp only [hedge, hk]; rfl) (by simp only [hedge, hk])
  | outRd i =>
    refine respects_whenRunning <| respects_require fun hdp => respects_require fun hi => ?_
    have hit := toNat_lt_of_setWidth_lt (of_decide_eq_true hi)
    exact respects_respond rfl (congrArg bitData (h.outCell_freeValues (of_decide_eq_true hdp) hit n))

end

end Sys2Proof.Safety

/-! ## The obligations of 10_state.md -/

namespace Sys2Proof.Proofs

open Sys2Proof.Machine Sys2Proof.Safety

/-- Settles O18: a command is rejected, faults or completes, and each completion keeps the invariant. -/
theorem stepKeepsTheInvariant : Obligations.StepKeepsTheInvariant := fun _ _ hinv hstep => hinv.step hstep

/-- Settles O17: the reset values satisfy the invariant, with no run whose rows it would speak of. -/
theorem invariantHoldsAtReset : Obligations.InvariantHoldsAtReset := fun c => (Reachable.reset c).inv

/-- Settles O20: the items of 10_state.md R49 are fields of the invariant, and (h) follows from its rows. -/
theorem reachableStatesKeepTheStateInvariants : Obligations.ReachableStatesKeepTheStateInvariants := by
  intro s hreach
  have hinv := hreach.inv
  refine ⟨hinv.epLe, hinv.eneEp, hinv.padsClear, hinv.tLe, hinv.idleT, hinv.tbK, hinv.doneK, fun hdp => ?_⟩
  exact ⟨hinv.dCell_zero hdp 0, hinv.dCell_zero hdp 1, hinv.dCell_zero hdp 2, hinv.dCell_zero hdp 3,
    fun n hn => hinv.stateZero_reachable hdp hn⟩

/-- Settles O22, by induction on the row. -/
theorem metricStaysWithinThreeTimesTheStep : Obligations.MetricStaysWithinThreeTimesTheStep :=
  fun _ hinv hdp _ _ _ hn hv => hinv.dCell_bound hdp hn hv

/-- Settles O21. `CORE.RST` discards the tables and counts the reset; every other command reads written cells only. -/
theorem unwrittenCellsAreNeverRead : Obligations.UnwrittenCellsAreNeverRead := by
  intro s n hinv
  show ∃ t m, step s = .next t ∧ step ((freeValues n).apply s) = .next ((freeValues m).apply t)
  cases hport : s.cmdIn with
  | nil => exact ⟨s, n, step_of_no_word hport, step_of_no_word (s := (freeValues n).apply s) hport⟩
  | cons w rest =>
    have hport' : ((freeValues n).apply s).cmdIn = w :: rest := hport
    cases hd : decode w with
    | error e =>
      rw [step_of_decode_error hport hd, step_of_decode_error hport' hd]
      obtain ⟨t, ht⟩ := respects_illegalWord (σ := freeValues n) (s := { s with cmdIn := rest })
      exact ⟨t, n, ht⟩
    | ok i =>
      rw [step_of_decode_ok hport hd, step_of_decode_ok hport' hd]
      by_cases hrst : i = .coreRst
      · subst hrst
        exact ⟨_, n + 1, execCoreRst_next.mpr rfl, execCoreRst_next.mpr rfl⟩
      · obtain ⟨t, ht⟩ := (hinv.withCmdIn rest).exec_respects_freeValues n hrst
        exact ⟨t, n, ht⟩

/-- Settles O34: an encoder command leaves the decoder side as it is, and runs alike whatever that side is. -/
theorem encoderTouchesOnlyItsRegisters : Obligations.EncoderTouchesOnlyItsRegisters := by
  intro i s hi
  have hruns : Side.encoder.runs i = true := hi
  obtain ⟨t, _, ht, -, -⟩ := (answersOnce_exec i s).next
  have hframe : t.withSide .decoder s = t := withSide_other_of_exec hruns ht
  have hleft : SameDecoder s t ∧ t.mem = s.mem ∧ SameTables s t ∧ SameRest s t := by
    rw [← hframe]
    exact ⟨⟨rfl, rfl, rfl, rfl⟩, rfl, ⟨fun _ _ => rfl, fun _ _ => rfl, fun _ => rfl⟩, rfl, rfl, rfl⟩
  obtain ⟨hdec, hmem, htab, hrest⟩ := hleft
  refine ⟨t, ht, hdec, hmem, htab, hrest, fun s' ⟨hm, hep, hene⟩ ⟨hflt, hcause⟩ => ?_⟩
  have hcore : corePart (s.withSide .decoder s') = corePart s' := by
    simp [State.withSide, corePart, hm, hep, hene, hflt, hcause]
  obtain ⟨t', r, ht', hcore', hrsp, hrsp', -⟩ :=
    outcomeIndependentOfThePorts i _ s' _ hcore (exec_withSide_other hruns ht s')
  have henc : SameEncoder t t' :=
    ⟨(congrArg State.m hcore').symm, (congrArg State.ep hcore').symm, (congrArg State.ene hcore').symm⟩
  have hlatch : SameLatch t t' := ⟨(congrArg State.flt hcore').symm, (congrArg State.cause hcore').symm⟩
  exact ⟨t', r, ht', henc, hlatch, hrsp, hrsp'⟩

/-- Settles O50: the two commands work on the two sides, whichever comes first. -/
theorem encoderAndDecoderCommandsCommute : Obligations.EncoderAndDecoderCommandsCommute := by
  intro a b s s₁ s₂ hsides h₁ hflt₁ h₂ hflt₂
  rcases hsides with ⟨ha, hb⟩ | ⟨ha, hb⟩
  · exact exec_commute (d := .encoder) ha (by simpa [Side.other, Side.runs] using hb) h₁ hflt₁ h₂ hflt₂
  · exact exec_commute (d := .decoder) (by simpa [Side.runs] using ha) hb h₁ hflt₁ h₂ hflt₂

/-- Settles O26: the status view is the weighted sum of its fields. -/
theorem coreStatAnswersTheStatusView : Obligations.CoreStatAnswersTheStatusView := by
  refine ⟨by decide, fun s => ?_⟩
  rw [phaseNat_eq, ← status_toNat]
  exact execCoreStat_next.mpr (answered_eq s s.status).symm

/-- Settles O27: the constants pass TablesOK, so the latch is clear after reset. -/
theorem resetValuesOfEveryRegister : Obligations.ResetValuesOfEveryRegister :=
  ⟨rfl, rfl, rfl, rfl, rfl, rfl, rfl, ⟨trellisTables_ok, rfl, rfl⟩, rfl⟩

/-- Settles O28: there are eight edges. -/
theorem trellisTablesAreTheEncodersOwn : Obligations.TrellisTablesAreTheEncodersOwn :=
  ⟨trellisTables_ok, by decide⟩

end Sys2Proof.Proofs

namespace Sys2Proof.Machine

section
variable {i : Instr} {s t : State}

/-- What holds of `s`, outlives a response and a latched cause, and holds where the command completes, holds after the
command. -/
theorem exec_keeps {Q : State → Prop} (h : exec i s = .next t) (hs : Q s) (hu : ∀ u, Completes i s u → Q u)
    (hemit : ∀ u r, Q u → Q (u.emit r)) (hlatch : ∀ u c, Q u → Q (u.latch c)) : Q t := by
  have hend := exec_endsIn i s
  rw [h] at hend
  cases hend with
  | rejected => exact hemit _ _ hs
  | faulted c => exact hemit _ _ (hlatch _ c hs)
  | completed u r hcompletes => exact hemit _ r (hu u hcompletes)

/-- A command that changed the response port only gives the same answer when issued again: it does not look at the
ports. -/
theorem exec_emit_again {r : Word32} (h : exec i s = .next (s.emit r)) :
    exec i (s.emit r) = .next ((s.emit r).emit r) := by
  obtain ⟨u, r', hanswer⟩ := answersOnce_exec i s
  have hfirst : s.emit r = u.withPorts s.cmdIn (s.rspOut ++ [r']) :=
    Host.Outcome.next.inj (h.symm.trans (hanswer s.cmdIn s.rspOut))
  obtain rfl : r = r' := by simpa [State.withPorts] using congrArg State.rspOut hfirst
  have hu : u.withPorts s.cmdIn (s.rspOut ++ [r] ++ [r]) = (s.emit r).emit r :=
    congrArg (·.withPorts s.cmdIn (s.rspOut ++ [r] ++ [r])) hfirst.symm
  exact (hanswer s.cmdIn (s.rspOut ++ [r])).trans (congrArg _ hu)

/-- A read that raises no fault, and the rejection of one, change the response port only (20_memory.md R59). -/
theorem exec_read_emits
    (hread : i = .coreStat ∨ (∃ x, i = .mapTri x) ∨ (∃ q, i = .fmrRdm q) ∨ ∃ j, i = .outRd j)
    (h : exec i s = .next t) (hflt : t.flt = s.flt) : ∃ r, t = s.emit r := by
  have hnoFault : ∀ c, s.flt = false → t ≠ s.faulted c := by
    rintro c hrun rfl
    simp [hrun] at hflt
  obtain rfl | ⟨x, rfl⟩ | ⟨q, rfl⟩ | ⟨j, rfl⟩ := hread
  · exact ⟨_, execCoreStat_next.mp h⟩
  · obtain ⟨-, ht⟩ | ⟨-, ht⟩ := execMapTri_next.mp h <;> exact ⟨_, ht⟩
  · obtain ⟨-, ht⟩ | ⟨hrun, -, ht⟩ | ⟨-, -, hmetric⟩ := execFmrRdm_next.mp h
    · exact ⟨_, ht⟩
    · exact absurd ht (hnoFault _ hrun)
    · obtain ⟨r, hr⟩ := respondMetric_emits (s.dCell s.t.toNat q)
      exact ⟨r, Host.Outcome.next.inj (hmetric.symm.trans (hr s))⟩
  · obtain ⟨-, ht⟩ | ⟨hrun, -, ht⟩ | ⟨hrun, -, -, ht⟩ | ⟨-, -, -, ht⟩ := execOutRd_next.mp h
    · exact ⟨_, ht⟩
    · exact absurd ht (hnoFault _ hrun)
    · exact absurd ht (hnoFault _ hrun)
    · exact ⟨_, ht⟩

end

end Sys2Proof.Machine

namespace Sys2Proof.Safety

open Sys2Proof.Machine

/-! ## What the decoder's commands leave unchanged -/

/-- From `s` to `t` no more was written than an FMR command may write (20_memory.md R51). -/
def ForwardFrame (s t : State) : Prop :=
  SameEncoder s t ∧ t.cur = s.cur ∧ t.k = s.k ∧ SameRest s t ∧ t.mem.out = s.mem.out ∧
  (∀ j, t.outCell j = s.outCell j) ∧
  (∀ n q, n ≠ t.t.toNat → t.dCell n q = s.dCell n q ∧ t.pCell n q = s.pCell n q)

/-- From `s` to `t` no more was written than a TBU command may write (20_memory.md R51). -/
def TracebackFrame (s t : State) : Prop :=
  SameEncoder s t ∧ t.t = s.t ∧ SameRest s t ∧ t.mem.d = s.mem.d ∧ t.mem.p = s.mem.p ∧
  (∀ n q, t.dCell n q = s.dCell n q ∧ t.pCell n q = s.pCell n q) ∧
  (∀ j, j + 1 ≠ s.k.toNat → t.outCell j = s.outCell j)

section
variable {i : Instr} {s t : State}

theorem forwardFrame_refl : ForwardFrame s s := by simp [ForwardFrame, SameEncoder, SameRest]

theorem ForwardFrame.emit (h : ForwardFrame s t) (r : Word32) : ForwardFrame s (t.emit r) := by
  simpa [ForwardFrame, SameEncoder, SameRest] using h

theorem ForwardFrame.latch (h : ForwardFrame s t) (c : Cause) : ForwardFrame s (t.latch c) := by
  simpa [ForwardFrame, SameEncoder, SameRest] using h

/-- `FMR.INIT` writes row 0 of D and sets T to 0. -/
theorem forwardFrame_init : ForwardFrame s (((s.writeDRow 0 initRow).setT 0).setDp .fwd) := by
  simp +contextual [ForwardFrame, SameEncoder, SameRest, State.dCell_writeDRow]

/-- `FMR.STEP` writes row T + 1 of D and of P and counts T up to that row. -/
theorem forwardFrame_forward (y : Triple Sym) (ht : s.t.toNat < s.cfg.nmax) : ForwardFrame s (s.forward y) := by
  have hcells : ∀ n q, n ≠ (s.t + 1).toNat →
      (s.forward y).dCell n q = s.dCell n q ∧ (s.forward y).pCell n q = s.pCell n q := by
    intro n q hn
    rw [toNat_count_succ ht] at hn
    simp [State.dCell_writeDRow, State.pCell_writePRow, hn]
  exact ⟨by simp [SameEncoder], by simp, by simp, by simp [SameRest], by simp, by simp, hcells⟩

theorem forwardFrame_completes (hi : isForward i = true) (h : Completes i s t) : ForwardFrame s t := by
  cases h with
  | fmrInit => exact forwardFrame_init
  | fmrStep hdp ht => exact forwardFrame_forward _ ht
  | fmrRdm => exact forwardFrame_refl
  | coreRst | coreStat | encPad | encBit | encEnd | mapTri | tbStart | tbStep | outRd => cases hi

theorem forwardFrame_exec (hi : isForward i = true) (h : exec i s = .next t) : ForwardFrame s t :=
  exec_keeps h forwardFrame_refl (fun _ => forwardFrame_completes hi) (fun _ r hu => hu.emit r) fun _ c hu => hu.latch c

theorem tracebackFrame_refl : TracebackFrame s s := by simp [TracebackFrame, SameEncoder, SameRest]

theorem TracebackFrame.emit (h : TracebackFrame s t) (r : Word32) : TracebackFrame s (t.emit r) := by
  simpa [TracebackFrame, SameEncoder, SameRest] using h

theorem TracebackFrame.latch (h : TracebackFrame s t) (c : Cause) : TracebackFrame s (t.latch c) := by
  simpa [TracebackFrame, SameEncoder, SameRest] using h

/-- `TB.START` writes CUR, K and DP. -/
theorem tracebackFrame_start : TracebackFrame s (((s.setCur 0).setK s.t).setDp .tb) := by
  simp [TracebackFrame, SameEncoder, SameRest]

/-- `TB.STEP` writes OUT[K-1], CUR, K and DP. -/
theorem tracebackFrame_walked : TracebackFrame s s.walked := by
  simp +contextual [TracebackFrame, SameEncoder, SameRest, State.outCell_writeOut]

theorem tracebackFrame_completes (hi : isTraceback i = true) (h : Completes i s t) : TracebackFrame s t := by
  cases h with
  | tbStart => exact tracebackFrame_start
  | tbStep => exact tracebackFrame_walked
  | outRd => exact tracebackFrame_refl
  | coreRst | coreStat | encPad | encBit | encEnd | mapTri | fmrInit | fmrStep | fmrRdm => cases hi

theorem tracebackFrame_exec (hi : isTraceback i = true) (h : exec i s = .next t) : TracebackFrame s t :=
  exec_keeps h tracebackFrame_refl (fun _ => tracebackFrame_completes hi) (fun _ r hu => hu.emit r) fun _ c hu =>
    hu.latch c

end

end Sys2Proof.Safety

/-! ## The obligations of 20_memory.md -/

namespace Sys2Proof.Proofs

open Sys2Proof.Machine Sys2Proof.Safety

/-- Settles O41: a command that completes writes the row T it leaves behind; a rejection or a fault writes none. -/
theorem forwardTouchesOnlyItsState : Obligations.ForwardTouchesOnlyItsState := fun _ _ _ hi h => forwardFrame_exec hi h

/-- Settles O48: only a step of the walk writes a cell, and that is OUT[K-1]. -/
theorem tracebackTouchesOnlyItsState : Obligations.TracebackTouchesOnlyItsState :=
  fun _ _ _ hi h => tracebackFrame_exec hi h

/-- Settles O49: the state is the same up to the response port, which no command looks at. -/
theorem readsChangeNothing : Obligations.ReadsChangeNothing := by
  intro i s t hread h hflt
  obtain ⟨r, rfl⟩ := exec_read_emits hread h hflt
  exact ⟨r, rfl, exec_emit_again h⟩

end Sys2Proof.Proofs

namespace Sys2Proof

/-! ## The fields of a command word (30_encoding.md R71) -/

theorem word_ext_iff {v w : Word16} : v = w ↔ opField v = opField w ∧ argField v = argField w := by
  refine ⟨fun h => h ▸ ⟨rfl, rfl⟩, fun ⟨hop, harg⟩ => ?_⟩
  rw [← fields_append v, ← fields_append w, hop, harg]

@[simp] theorem opField_and (v w : Word16) : opField (v &&& w) = opField v &&& opField w := BitVec.extractLsb'_and

@[simp] theorem argField_and (v w : Word16) : argField (v &&& w) = argField v &&& argField w := BitVec.extractLsb'_and

theorem opField_toNat (w : Word16) : (opField w).toNat = w.toNat / 4096 := by
  have := w.isLt
  simp only [opField, BitVec.extractLsb'_toNat, Nat.shiftRight_eq_div_pow]
  omega

theorem argField_eq (w : Word16) : argField w = BitVec.ofNat 12 (w.toNat % 4096) :=
  BitVec.eq_of_toNat_eq (by simp [argField])

theorem opField_encode (i : Instr) : opField (encode i) = i.mnemonic.op := opField_append _ _

theorem argField_encode (i : Instr) : argField (encode i) = operandField i := argField_append _ _

/-! ## The operation code (30_encoding.md R76, R77) -/

theorem mnemonicOfOp_eq_some {op : BitVec 4} {m : Mnemonic} : mnemonicOfOp op = some m ↔ op = m.op :=
  ⟨fun h => (op_of_mnemonicOfOp h).symm, fun h => h ▸ mnemonicOfOp_op m⟩

theorem mnemonicOfOp_eq_none {op : BitVec 4} : mnemonicOfOp op = none ↔ op.toNat ∈ [0x0, 0x3, 0xB, 0xF] := by
  revert op; decide

/-! ## The operand field (30_encoding.md R72, R73) -/

/-- How many low bits of the operand field a format uses; the others are its reserved bits. -/
def Format.width : Format → Nat
  | .z => 0
  | .b1 => 1
  | .b3 => 3
  | .s2 => 2
  | .i12 => 12

theorem Format.width_le (f : Format) : f.width ≤ 12 := by cases f <;> decide

theorem Format.reserved_eq (f : Format) : f.reserved = BitVec.allOnes 12 <<< f.width := by cases f <;> decide

theorem Format.and_reserved_eq_zero {f : Format} {arg : BitVec 12} :
    arg &&& f.reserved = 0 ↔ arg.toNat < 2 ^ f.width := by
  rw [f.reserved_eq]
  constructor
  · intro h
    refine Nat.lt_pow_two_of_testBit _ fun j hj => ?_
    change arg.getLsbD j = false
    by_cases hlt : j < 12
    · have hbit : (arg &&& BitVec.allOnes 12 <<< f.width).getLsbD j = false := h ▸ BitVec.getLsbD_zero
      have htop : j - f.width < 12 := Nat.lt_of_le_of_lt (Nat.sub_le j f.width) hlt
      rw [BitVec.getLsbD_and, BitVec.getLsbD_shiftLeft, BitVec.getLsbD_allOnes] at hbit
      simpa only [hlt, htop, Nat.not_lt.mpr hj, decide_true, decide_false, Bool.not_false, Bool.and_true] using hbit
    · exact BitVec.getLsbD_of_ge arg j (Nat.le_of_not_lt hlt)
  · intro h
    refine BitVec.eq_of_getLsbD_eq fun j _ => ?_
    by_cases hj : j < f.width
    · simp [hj]
    · have hpow : 2 ^ f.width ≤ 2 ^ j := Nat.pow_le_pow_right (by decide) (Nat.le_of_not_lt hj)
      simp [BitVec.getLsbD, Nat.testBit_lt_two_pow (Nat.lt_of_lt_of_le h hpow)]

/-- A field kept to low bits that hold all of it is the field again. -/
theorem setWidth_extractLsb'_of_lt {arg : BitVec 12} {n : Nat} (h : arg.toNat < 2 ^ n) :
    (arg.extractLsb' 0 n).setWidth 12 = arg := by
  refine BitVec.eq_of_toNat_eq ?_
  rw [BitVec.toNat_setWidth, BitVec.extractLsb'_toNat, Nat.shiftRight_zero, Nat.mod_eq_of_lt h,
    Nat.mod_eq_of_lt arg.isLt]

theorem extractLsb'_setWidth_of_le {n : Nat} (x : BitVec n) (hn : n ≤ 12) : (x.setWidth 12).extractLsb' 0 n = x := by
  have hlt : x.toNat < 2 ^ 12 := Nat.lt_of_lt_of_le x.isLt (Nat.pow_le_pow_right (by decide) hn)
  refine BitVec.eq_of_toNat_eq ?_
  rw [BitVec.extractLsb'_toNat, BitVec.toNat_setWidth, Nat.shiftRight_zero, Nat.mod_eq_of_lt hlt,
    Nat.mod_eq_of_lt x.isLt]

theorem toNat_setWidth_lt {n : Nat} (x : BitVec n) : (x.setWidth 12).toNat < 2 ^ n := by
  rw [BitVec.toNat_setWidth]
  exact Nat.lt_of_le_of_lt (Nat.mod_le _ _) x.isLt

theorem map_ofCode_map_code (y : Triple Sym) : (y.map Sym.code).map Sym.ofCode = y := by
  simp [Triple.map, ofCode_code]

theorem map_code_map_ofCode (x : Triple Bit) : (x.map Sym.ofCode).map Sym.code = x := by
  simp [Triple.map, code_ofCode]

theorem ofBool_getLsbD_zero (arg : BitVec 12) : BitVec.ofBool (arg.getLsbD 0) = arg.extractLsb' 0 1 := by
  refine BitVec.eq_of_getLsbD_eq fun j hj => ?_
  obtain rfl : j = 0 := by omega
  simp

@[simp] theorem assembleOperands_mnemonic (m : Mnemonic) (arg : BitVec 12) : (assembleOperands m arg).mnemonic = m := by
  cases m <;> rfl

theorem assembleOperands_operandField (i : Instr) : assembleOperands i.mnemonic (operandField i) = i := by
  cases i with
  | coreRst | coreStat | encEnd | fmrInit | tbStart | tbStep | outRd => rfl
  | encPad b | encBit b => cases b <;> rfl
  | mapTri x =>
    simp [assembleOperands, operandField, Instr.mnemonic, extractLsb'_setWidth_of_le, unpackTriple_packTriple]
  | fmrStep y =>
    simp [assembleOperands, operandField, Instr.mnemonic, extractLsb'_setWidth_of_le, unpackTriple_packTriple,
      map_ofCode_map_code]
  | fmrRdm q => simp [assembleOperands, operandField, Instr.mnemonic, extractLsb'_setWidth_of_le]

theorem operandField_assembleOperands {m : Mnemonic} {arg : BitVec 12} (h : arg &&& m.format.reserved = 0) :
    operandField (assembleOperands m arg) = arg := by
  have hlt := Format.and_reserved_eq_zero.mp h
  have hkeep := setWidth_extractLsb'_of_lt hlt
  cases m with
  | coreRst | coreStat | encEnd | fmrInit | tbStart | tbStep => exact BitVec.eq_of_toNat_eq (Nat.lt_one_iff.mp hlt).symm
  | encPad | encBit => exact (congrArg (·.setWidth 12) (ofBool_getLsbD_zero arg)).trans hkeep
  | mapTri => exact (congrArg (·.setWidth 12) (packTriple_unpackTriple _)).trans hkeep
  | fmrStep =>
    have hbits : packTriple (((unpackTriple (arg.extractLsb' 0 3)).map Sym.ofCode).map Sym.code) =
        arg.extractLsb' 0 3 := by rw [map_code_map_ofCode, packTriple_unpackTriple]
    exact (congrArg (·.setWidth 12) hbits).trans hkeep
  | fmrRdm => exact hkeep
  | outRd => rfl

theorem operandField_and_reserved (i : Instr) : operandField i &&& i.mnemonic.format.reserved = 0 := by
  rw [Format.and_reserved_eq_zero]
  cases i with
  | coreRst | coreStat | encEnd | fmrInit | tbStart | tbStep => exact Nat.one_pos
  | encPad | encBit | mapTri | fmrStep | fmrRdm => exact toNat_setWidth_lt _
  | outRd i => exact i.isLt

/-! ## Decoding (30_encoding.md R74) -/

theorem decode_of_op {w : Word16} {m : Mnemonic} (h : opField w = m.op) :
    decode w = if argField w &&& m.format.reserved = 0 then .ok (assembleOperands m (argField w))
      else .error .reservedBits := by
  simp only [decode, mnemonicOfOp_eq_some.mpr h]

theorem decode_eq_reservedOp {w : Word16} : decode w = .error .reservedOp ↔ mnemonicOfOp (opField w) = none := by
  cases hop : mnemonicOfOp (opField w) with
  | none => simp [decode, hop]
  | some m =>
    rw [decode_of_op (mnemonicOfOp_eq_some.mp hop)]
    split <;> simp

/-- Decoding inverts encoding: a word decodes to the command whose word it is, and to no other. -/
theorem decode_eq_ok {w : Word16} {i : Instr} : decode w = .ok i ↔ encode i = w := by
  constructor
  · intro h
    cases hop : mnemonicOfOp (opField w) with
    | none => rw [decode_eq_reservedOp.mpr hop] at h; cases h
    | some m =>
      have hm := mnemonicOfOp_eq_some.mp hop
      rw [decode_of_op hm] at h
      split at h
      case isTrue hlegal =>
        obtain rfl := Except.ok.inj h
        refine word_ext_iff.mpr ⟨?_, ?_⟩
        · rw [opField_encode, assembleOperands_mnemonic, hm]
        · rw [argField_encode, operandField_assembleOperands hlegal]
      case isFalse => cases h
  · rintro rfl
    rw [decode_of_op (opField_encode i), argField_encode, if_pos (operandField_and_reserved i),
      assembleOperands_operandField]

/-- A word decodes to a command with the mnemonic `m` by its op and the reserved bits of the format. -/
theorem exists_decode_eq_ok {w : Word16} {m : Mnemonic} :
    (∃ i, decode w = .ok i ∧ i.mnemonic = m) ↔ opField w = m.op ∧ argField w &&& m.format.reserved = 0 := by
  constructor
  · rintro ⟨i, hi, rfl⟩
    obtain rfl := decode_eq_ok.mp hi
    exact ⟨opField_encode i, argField_encode i ▸ operandField_and_reserved i⟩
  · rintro ⟨hop, hlegal⟩
    exact ⟨assembleOperands m (argField w), by rw [decode_of_op hop, if_pos hlegal], assembleOperands_mnemonic m _⟩

/-- A row of the opcode map states the op in full and asks the reserved bits of the format to be 0. -/
theorem opcodeTable_row {r : OpRow} (h : r ∈ opcodeTable) :
    opField r.mask = BitVec.allOnes 4 ∧ argField r.mask = r.mnemonic.format.reserved ∧
    opField r.pattern = r.mnemonic.op ∧ argField r.pattern = 0 := by
  revert r; decide

theorem and_mask_eq_pattern {w : Word16} {r : OpRow} (h : r ∈ opcodeTable) :
    w &&& r.mask = r.pattern ↔ opField w = r.mnemonic.op ∧ argField w &&& r.mnemonic.format.reserved = 0 := by
  obtain ⟨hopMask, hargMask, hop, harg⟩ := opcodeTable_row h
  rw [word_ext_iff, opField_and, argField_and, hopMask, hargMask, hop, harg, BitVec.and_allOnes]

/-! ## Counting words by op and operand field -/

/-- A count over a range of `n * k` numbers, by quotient and remainder. -/
theorem countP_range_mul (p : Nat → Bool) (k n : Nat) :
    (List.range (n * k)).countP p = ((List.range n).map fun i => (List.range k).countP fun j => p (i * k + j)).sum := by
  induction n with
  | zero => simp
  | succ n ih => simp [Nat.succ_mul, List.range_add, List.range_succ, ih, List.countP_map, Function.comp_def]

theorem countP_range_lt {n k : Nat} (h : k ≤ n) : ((List.range n).countP fun j => decide (j < k)) = k := by
  obtain ⟨d, rfl⟩ := Nat.exists_eq_add_of_le h
  have hlow : ((List.range k).countP fun j => decide (j < k)) = k := by
    rw [List.countP_eq_length.mpr (by simp), List.length_range]
  simp [List.range_add, hlow, List.countP_map, Function.comp_def]

/-- For any list: stated of `List.range 65536` the sum would be evaluated by the kernel. -/
theorem countP_isNone {α β : Type} {f : α → Option β} {l : List α} {k : Nat}
    (h : (l.countP fun a => (f a).isSome) = k) : (l.countP fun a => (f a).isNone) = l.length - k := by
  have hsum := List.length_eq_countP_add_countP (fun a => (f a).isSome) (l := l)
  simp only [Bool.not_eq_true, Option.isSome_eq_false_iff, Bool.decide_eq_true, h] at hsum
  omega

theorem ofNat_word {op arg : Nat} (h : arg < 4096) :
    BitVec.ofNat 16 (op * 4096 + arg) = (BitVec.ofNat 4 op ++ BitVec.ofNat 12 arg : BitVec (4 + 12)) := by
  refine BitVec.eq_of_toNat_eq ?_
  rw [Machine.toNat_append_eq]
  simp only [BitVec.toNat_ofNat]
  omega

/-- A count over all words, from the count for each operation code. -/
theorem countP_words {p : Word16 → Bool} {count : BitVec 4 → Nat}
    (h : ∀ op : BitVec 4,
      ((List.range 4096).countP fun n => p (op ++ BitVec.ofNat 12 n : BitVec (4 + 12))) = count op) :
    ((List.range 65536).countP fun n => p (BitVec.ofNat 16 n)) =
      ((List.range 16).map fun op => count (BitVec.ofNat 4 op)).sum := by
  rw [show 65536 = 16 * 4096 from rfl, countP_range_mul]
  refine congrArg List.sum (List.map_congr_left fun op _ => ?_)
  rw [← h]
  refine List.countP_congr fun n hn => ?_
  rw [ofNat_word (List.mem_range.mp hn)]

/-- A word with a defined op is legal by the size of its operand field. -/
theorem decode_isSome_iff {m : Mnemonic} {n : Nat} (hn : n < 4096) :
    (decode (m.op ++ BitVec.ofNat 12 n : BitVec (4 + 12))).toOption.isSome = true ↔ n < 2 ^ m.format.width := by
  have hlegal : BitVec.ofNat 12 n &&& m.format.reserved = 0 ↔ n < 2 ^ m.format.width := by
    rw [Format.and_reserved_eq_zero, BitVec.toNat_ofNat, Nat.mod_eq_of_lt hn]
  simp only [decode_of_op (opField_append _ _), argField_append, hlegal]
  split <;> simp [Except.toOption, *]

theorem countP_reservedOp_of_op (op : BitVec 4) :
    ((List.range 4096).countP fun n =>
      decide (decode (op ++ BitVec.ofNat 12 n : BitVec (4 + 12)) = .error .reservedOp)) =
      if mnemonicOfOp op = none then 4096 else 0 := by
  simp only [decode_eq_reservedOp, opField_append]
  split <;> simp [*]

theorem countP_legal_of_op (op : BitVec 4) :
    ((List.range 4096).countP fun n => (decode (op ++ BitVec.ofNat 12 n : BitVec (4 + 12))).toOption.isSome) =
      (mnemonicOfOp op).elim 0 fun m => 2 ^ m.format.width := by
  cases hop : mnemonicOfOp op with
  | none =>
    have hdec : ∀ n : Nat, decode (op ++ BitVec.ofNat 12 n : BitVec (4 + 12)) = .error .reservedOp := fun n =>
      decode_eq_reservedOp.mpr ((opField_append op _).symm ▸ hop)
    simp [hdec, Except.toOption]
  | some m =>
    obtain rfl := mnemonicOfOp_eq_some.mp hop
    have hcongr : ∀ n ∈ List.range 4096,
        (decode (m.op ++ BitVec.ofNat 12 n : BitVec (4 + 12))).toOption.isSome = true ↔
          decide (n < 2 ^ m.format.width) = true := fun n hn => by
      rw [decode_isSome_iff (List.mem_range.mp hn), decide_eq_true_eq]
    rw [List.countP_congr hcongr]
    exact countP_range_lt (Nat.pow_le_pow_right (by decide) m.format.width_le)

theorem countP_reservedOp :
    ((List.range 65536).countP fun n => decide (decode (BitVec.ofNat 16 n) = .error .reservedOp)) = 16384 :=
  (countP_words (p := fun w => decide (decode w = .error .reservedOp)) countP_reservedOp_of_op).trans (by decide)

theorem countP_legal : ((List.range 65536).countP fun n => (decode (BitVec.ofNat 16 n)).toOption.isSome) = 4126 :=
  (countP_words (p := fun w => (decode w).toOption.isSome) countP_legal_of_op).trans (by decide)

theorem countP_illegal : ((List.range 65536).countP fun n => (decode (BitVec.ofNat 16 n)).toOption.isNone) = 61410 := by
  rw [countP_isNone (f := fun n => (decode (BitVec.ofNat 16 n)).toOption) countP_legal, List.length_range]

end Sys2Proof

namespace Sys2Proof.Machine

/-! ## The assembler syntax (30_encoding.md R81; white space and comments as in log 11) -/

/-- How `printLine` writes a digit. -/
def digitChar (n : Nat) : Char := Char.ofNat (n + '0'.toNat)

/-- How `printLine` writes an operand: nothing, or a space and the digits. -/
def operandText : List Nat → List Char
  | [] => []
  | d :: ds => ' ' :: (d :: ds).map digitChar

theorem printLine_eq (i : Instr) : printLine i = i.mnemonic.name.toList ++ operandText i.raw.digits := by
  unfold printLine operandText
  cases i.raw.digits <;> rfl

theorem digitOfChar_digitChar {d : Nat} (h : d ≤ 9) : digitOfChar (digitChar d) = some d := by
  interval_cases d <;> rfl

theorem digitChar_ne {d : Nat} (h : d ≤ 9) : digitChar d ≠ ' ' ∧ digitChar d ≠ ';' := by
  interval_cases d <;> decide

theorem mnemonicOfName_name (m : Mnemonic) : mnemonicOfName m.name.toList = some m := by
  cases m <;> simp [mnemonicOfName, Mnemonic.all, Mnemonic.name]

theorem name_chars (m : Mnemonic) : ∀ c ∈ m.name.toList, c ≠ ' ' ∧ c ≠ ';' := by
  cases m <;> simp [Mnemonic.name]

section
variable {m : Mnemonic} {ds : List Nat} (hds : ∀ d ∈ ds, d ≤ 9)
include hds

theorem digitsOfChars_map_digitChar : digitsOfChars (ds.map digitChar) = some ds := by
  induction ds with
  | nil => rfl
  | cons d ds ih =>
    obtain ⟨hd, htail⟩ := List.forall_mem_cons.mp hds
    simp [digitsOfChars, digitOfChar_digitChar hd, ih htail]

theorem operandDigits_operandText : operandDigits (operandText ds) = some ds := by
  cases ds with
  | nil => rfl
  | cons d ds => exact digitsOfChars_map_digitChar hds

theorem semicolon_not_mem_operandText : ';' ∉ operandText ds := by
  cases ds with
  | nil => simp [operandText]
  | cons d ds =>
    rintro (_ | ⟨_, hmem⟩)
    obtain ⟨n, hn, heq⟩ := List.mem_map.mp hmem
    exact (digitChar_ne (hds n hn)).2 heq

theorem getLast_commandText (h : m.name.toList ++ operandText ds ≠ []) :
    (m.name.toList ++ operandText ds).getLast h ≠ ' ' := by
  cases ds with
  | nil =>
    simp only [operandText, List.append_nil] at h ⊢
    exact (name_chars m _ (List.getLast_mem h)).1
  | cons d ds =>
    have hne : (d :: ds).map digitChar ≠ [] := by simp
    rw [List.getLast_append_of_right_ne_nil _ _ (by simp [operandText])]
    simp only [operandText]
    rw [List.getLast_cons hne]
    obtain ⟨n, hn, heq⟩ := List.mem_map.mp (List.getLast_mem hne)
    exact heq ▸ (digitChar_ne (hds n hn)).1

end

/-- A comment and the space before it are no part of the body. -/
theorem lineBody_eq {text : List Char} (hsemi : ';' ∉ text) (hlast : ∀ h : text ≠ [], text.getLast h ≠ ' ')
    (comment : List Char) : lineBody text = text ∧ lineBody (text ++ ' ' :: ';' :: comment) = text := by
  have hall : ∀ c ∈ text, (c != ';') = true := fun c hc => bne_iff_ne.mpr fun h => hsemi (h ▸ hc)
  have hspaces : text.rdropWhile (· == ' ') = text :=
    List.rdropWhile_eq_self_iff.mpr fun h hspace => hlast h (beq_iff_eq.mp hspace)
  constructor
  · show (text.takeWhile (· != ';')).rdropWhile (· == ' ') = text
    rw [List.takeWhile_eq_self_iff.mpr hall, hspaces]
  · show ((text ++ ' ' :: ';' :: comment).takeWhile (· != ';')).rdropWhile (· == ' ') = text
    have hbefore : (text ++ ' ' :: ';' :: comment).takeWhile (· != ';') = text ++ [' '] := by
      simp [List.takeWhile_append_of_pos hall]
    rw [hbefore, List.rdropWhile_concat_pos _ _ _ rfl, hspaces]

theorem parseLine_of_lineBody {line : List Char} {m : Mnemonic} {ds : List Nat} (hds : ∀ d ∈ ds, d ≤ 9)
    (h : lineBody line = m.name.toList ++ operandText ds) : parseLine line = some ⟨m, ds⟩ := by
  have hname : ∀ c ∈ m.name.toList, (c != ' ') = true := fun c hc => bne_iff_ne.mpr (name_chars m c hc).1
  have htake : (lineBody line).takeWhile (· != ' ') = m.name.toList := by
    rw [h, List.takeWhile_append_of_pos hname]
    cases ds <;> simp [operandText]
  have hdrop : (lineBody line).dropWhile (· != ' ') = operandText ds := by
    rw [h, List.dropWhile_append_of_pos hname]
    cases ds <;> simp [operandText]
  simp [parseLine, htake, hdrop, mnemonicOfName_name, operandDigits_operandText hds]

/-! ## The text command of a typed command -/

theorem raw_wellFormed (i : Instr) : i.raw.wellFormed = true := by
  cases i with
  | coreRst => exact Laws.AlwaysWellFormed.coreRst
  | coreStat => exact Laws.AlwaysWellFormed.coreStat
  | encPad b => exact Laws.AlwaysWellFormed.encPad b
  | encBit b => exact Laws.AlwaysWellFormed.encBit b
  | encEnd => exact Laws.AlwaysWellFormed.encEnd
  | mapTri x => exact Laws.AlwaysWellFormed.mapTri x
  | fmrInit => exact Laws.AlwaysWellFormed.fmrInit
  | fmrStep y => exact Laws.AlwaysWellFormed.fmrStep y
  | fmrRdm q => exact Laws.AlwaysWellFormed.fmrRdm q
  | tbStart => exact Laws.AlwaysWellFormed.tbStart
  | tbStep => exact Laws.AlwaysWellFormed.tbStep
  | outRd k => exact Laws.AlwaysWellFormed.outRd k

/-- Whatever the format, an operand it accepts is written in decimal digits. -/
theorem digits_le_of_wellFormed {c : RawCmd} (h : c.wellFormed = true) : ∀ d ∈ c.digits, d ≤ 9 := by
  intro d hd
  unfold RawCmd.wellFormed at h
  cases hf : c.mnemonic.format with
  | z =>
    have hnil : c.digits = [] := by simpa [hf, Format.accepts] using h
    simp [hnil] at hd
  | b1 | b3 | s2 =>
    simp only [hf, Format.accepts, Bool.and_eq_true, List.all_eq_true, decide_eq_true_eq] at h
    obtain ⟨_, hall⟩ := h
    exact (hall d hd).trans (by decide)
  | i12 =>
    simp only [hf, Format.accepts, Bool.and_eq_true, List.all_eq_true, decide_eq_true_eq] at h
    obtain ⟨⟨_, hall⟩, _⟩ := h
    exact hall d hd

@[simp] theorem bit_digit_eq_one (b : Bit) : (Bit.digit b == 1) = b := by cases b <;> rfl

theorem ofCode_symDigit (v : Sym) : Sym.ofCode ((if v = .minus then 1 else 0) == 1) = v := by cases v <;> rfl

theorem rawToInstr_raw (i : Instr) : rawToInstr i.raw = some i := by
  rw [rawToInstr, if_pos (raw_wellFormed i), Option.some_inj]
  cases i with
  | coreRst | coreStat | encEnd | fmrInit | tbStart | tbStep => rfl
  | encPad b | encBit b => cases b <;> rfl
  | mapTri x => simp [Instr.raw, Triple.map, Triple.toList]
  | fmrStep y => simp [Instr.raw, Triple.map, Triple.toList, ofCode_symDigit]
  | fmrRdm q => simp [Instr.raw, decimalValue]
  | outRd k =>
    simp [Instr.raw, Laws.decimalValue_decimalDigits (Nat.lt_of_lt_of_le k.isLt (by decide : 2 ^ 12 ≤ 10000))]

theorem assembleLine_of_lineBody {line : List Char} {i : Instr} (h : lineBody line = printLine i) :
    assembleLine line = some i := by
  have hdigits := digits_le_of_wellFormed (raw_wellFormed i)
  have hmnemonic : i.raw = ⟨i.mnemonic, i.raw.digits⟩ := by cases i <;> rfl
  rw [assembleLine, parseLine_of_lineBody hdigits (h.trans (printLine_eq i)), ← hmnemonic]
  exact rawToInstr_raw i

theorem lineBody_printLine (i : Instr) (comment : List Char) :
    lineBody (printLine i) = printLine i ∧ lineBody (printLine i ++ ' ' :: ';' :: comment) = printLine i := by
  have hdigits := digits_le_of_wellFormed (raw_wellFormed i)
  rw [printLine_eq]
  refine lineBody_eq ?_ (getLast_commandText hdigits) comment
  rw [List.mem_append, not_or]
  exact ⟨fun hmem => (name_chars i.mnemonic _ hmem).2 rfl, semicolon_not_mem_operandText hdigits⟩

/-! ## The response word of a step (30_encoding.md R75) -/

/-- The response words of a command (30_encoding.md R75); `unr` says whether it may answer "unreachable". -/
inductive Response (unr : Prop) : Word32 → Prop where
  | completed (data : BitVec 16) : Response unr (packResponse 0 false data)
  | unreachable (h : unr) : Response unr (packResponse 0 true 0)
  | faulted (c : Cause) : Response unr (packResponse c.code false 0)
  | rejected : Response unr (packResponse 15 false 0)

/-- The result is a next state in which a response word of the command has been given. -/
def GivesResponse (unr : Prop) (k : Result) : Prop := ∃ u r, k = .next (State.emit u r) ∧ Response unr r

section
variable {unr : Prop} {s : State} {k : Result}

theorem givesResponse_respond (data : BitVec 16) (u : State) : GivesResponse unr (respond data u) :=
  ⟨u, _, rfl, .completed data⟩

theorem givesResponse_respondMetric (h : unr) (v : Metric) (u : State) : GivesResponse unr (respondMetric v u) := by
  cases v with
  | unr => exact ⟨u, _, rfl, .unreachable h⟩
  | val n => exact givesResponse_respond _ u

theorem givesResponse_raiseFault (c : Cause) (s : State) : GivesResponse unr (raiseFault c s) :=
  ⟨s.latch c, _, rfl, .faulted c⟩

theorem givesResponse_whenRunning (h : GivesResponse unr k) : GivesResponse unr (whenRunning s k) := by
  cases hflt : s.flt with
  | false => rwa [whenRunning_of_running hflt]
  | true => rw [whenRunning_of_faulted hflt]; exact ⟨s, _, rfl, .rejected⟩

theorem givesResponse_require {legal : Bool} {c : Cause} (h : GivesResponse unr k) :
    GivesResponse unr (require legal c s k) := by
  cases legal with
  | false => exact givesResponse_raiseFault c s
  | true => exact h

theorem givesResponse_illegalWord : GivesResponse unr (illegalWord s) :=
  givesResponse_whenRunning (givesResponse_raiseFault .illegalCommand s)

theorem givesResponse_resetCore (tb : Tables) : GivesResponse unr (resetCore tb s) := by
  unfold resetCore
  split
  · exact givesResponse_respond _ _
  · exact ⟨s.resetRegs tb, _, rfl, .faulted .tableInconsistent⟩

/-- Only `FMR.RDM` answers "unreachable" (42_forward_recursion.md R118). -/
theorem givesResponse_exec (i : Instr) (s : State) : GivesResponse (∃ q, i = .fmrRdm q) (exec i s) := by
  cases i with
  | coreRst => exact givesResponse_resetCore trellisTables
  | coreStat => exact givesResponse_respond _ _
  | fmrRdm q =>
    exact givesResponse_whenRunning <| givesResponse_require <| givesResponse_respondMetric ⟨q, rfl⟩ _ _
  | mapTri | fmrInit => exact givesResponse_whenRunning <| givesResponse_respond _ _
  | encBit | encEnd | tbStep =>
    exact givesResponse_whenRunning <| givesResponse_require <| givesResponse_respond _ _
  | encPad | fmrStep | tbStart | outRd =>
    exact givesResponse_whenRunning <| givesResponse_require <| givesResponse_require <| givesResponse_respond _ _

theorem givesResponse_step {w : Word16} {rest : List Word16} (h : s.cmdIn = w :: rest) :
    GivesResponse (∃ q, decode w = .ok (.fmrRdm q)) (step s) := by
  cases hd : decode w with
  | error e => exact step_of_decode_error h hd ▸ givesResponse_illegalWord
  | ok i =>
    rw [step_of_decode_ok h hd]
    simpa using givesResponse_exec i { s with cmdIn := rest }

/-! ## The fields of a response word -/

section
variable (err : BitVec 4) (u : Bit) (data : BitVec 16)

theorem packResponse_zeros : (packResponse err u data).extractLsb' 17 11 = 0 := by
  have hu := toNat_bool_le u
  have hdata := data.isLt
  refine BitVec.eq_of_toNat_eq ?_
  rw [BitVec.extractLsb'_toNat, packResponse_toNat, Nat.shiftRight_eq_div_pow]
  change _ = 0
  omega

theorem packResponse_div_mod : (packResponse err u data).toNat / 2 ^ 28 = err.toNat ∧
    (packResponse err u data).toNat % 2 ^ 28 = u.toNat * 2 ^ 16 + data.toNat := by
  have hu := toNat_bool_le u
  have hdata := data.isLt
  rw [packResponse_toNat]
  omega

theorem packResponse_u : (packResponse err u data).getLsbD 16 = u := by
  have hdata := data.isLt
  rw [BitVec.getLsbD, Nat.testBit_eq_decide_div_mod_eq, packResponse_toNat]
  cases u with
  | false => exact decide_eq_false (by rw [Bool.toNat_false]; omega)
  | true => exact decide_eq_true (by rw [Bool.toNat_true]; omega)

end

theorem Cause.code_le (c : Cause) : c.code.toNat ≤ 7 := by cases c <;> decide

theorem Response.fields {r : Word32} (h : Response unr r) :
    ∃ err u data, r = packResponse err u data ∧ (err.toNat ≤ 7 ∨ err.toNat = 15) ∧
      (err.toNat ≠ 0 → u.toNat * 2 ^ 16 + data.toNat = 0) ∧ (u = true → unr) := by
  cases h with
  | completed data => exact ⟨0, false, data, rfl, by decide, fun h => absurd rfl h, Bool.noConfusion⟩
  | unreachable h => exact ⟨0, true, 0, rfl, by decide, fun h => absurd rfl h, fun _ => h⟩
  | faulted c => exact ⟨c.code, false, 0, rfl, .inl c.code_le, fun _ => rfl, Bool.noConfusion⟩
  | rejected => exact ⟨15, false, 0, rfl, by decide, fun _ => rfl, Bool.noConfusion⟩

theorem Response.layout {r : Word32} (h : Response unr r) :
    r.extractLsb' 17 11 = 0 ∧ (r.toNat / 2 ^ 28 ≤ 7 ∨ r.toNat / 2 ^ 28 = 15) ∧
    (r.toNat / 2 ^ 28 ≠ 0 → r.toNat % 2 ^ 28 = 0) ∧ (r.getLsbD 16 = true → unr) := by
  obtain ⟨err, u, data, rfl, herr, hrest, hunr⟩ := h.fields
  obtain ⟨hdiv, hmod⟩ := packResponse_div_mod err u data
  rw [hdiv, hmod, packResponse_u]
  exact ⟨packResponse_zeros err u data, herr, hrest, hunr⟩

end

end Sys2Proof.Machine

/-! ## The obligations of 30_encoding.md -/

namespace Sys2Proof.Proofs

open Sys2Proof.Machine Sys2Proof.Safety

/-- Settles O2: op and operand field of a command's word give the command back, so decoding inverts encoding. -/
theorem decodeOfEncodeIsIdentity : Obligations.DecodeOfEncodeIsIdentity := fun _ => decode_eq_ok.mpr rfl

/-- Settles O3: the op and, with the reserved bits 0, the operand field of a word can be read off its command. -/
theorem encodeOfDecodeIsIdentity : Obligations.EncodeOfDecodeIsIdentity := fun _ _ h => decode_eq_ok.mp h

/-- Settles O4: mask and match of a row ask of a word what decoding asks of its op and its reserved bits. -/
theorem wordIsCommandExactlyByMaskAndMatch : Obligations.WordIsCommandExactlyByMaskAndMatch := fun _ _ hr =>
  exists_decode_eq_ok.trans (and_mask_eq_pattern hr).symm

/-- Settles O6: for each op, the words counted are those whose operand field is small enough for the format. -/
theorem legalWordsCounted : Obligations.LegalWordsCounted := by
  refine ⟨countP_reservedOp, countP_legal, countP_illegal, fun w m hop hbits => ?_⟩
  have hop' : opField w = m.op := BitVec.eq_of_toNat_eq ((opField_toNat w).trans hop.symm)
  rw [decode_of_op hop', argField_eq, if_neg hbits]

/-- Settles O7: the body of the printed line is the line itself, with or without the comment (log 11). -/
theorem assemblingAPrintedLineGivesTheCommand : Obligations.AssemblingAPrintedLineGivesTheCommand := by
  intro i comment
  obtain ⟨hplain, hcommented⟩ := lineBody_printLine i comment
  exact ⟨assembleLine_of_lineBody hplain, assembleLine_of_lineBody hcommented⟩

/-- Settles O15: the response is one of those that the shared operations of a command give. -/
theorem oneResponseWordPerCommand : Obligations.OneResponseWordPerCommand := by
  intro s t w rest hport hstep
  obtain ⟨t', r, hstep', hrest, hrsp⟩ := step_answers_word hport
  obtain rfl := Host.Outcome.next.inj (hstep.symm.trans hstep')
  obtain ⟨u, r', hu, hr⟩ := givesResponse_step hport
  obtain rfl := Host.Outcome.next.inj (hstep.symm.trans hu)
  obtain rfl : r' = r := List.singleton_inj.mp (List.append_inj_right' hrsp rfl)
  exact ⟨hrest, r', hrsp, hr.layout⟩

/-- Settles O1: each word is the word of its command. -/
theorem specWordsDecode : Obligations.SpecWordsDecode := by
  simp only [Obligations.SpecWordsDecode, decode_eq_ok]
  decide

/-- Settles O5: the op alone makes the word illegal. -/
theorem reservedOperationCodesAreIllegal : Obligations.ReservedOperationCodesAreIllegal := by
  have hreserved : ∀ w : Word16, w.toNat / 4096 ∈ [0x0, 0x3, 0xB, 0xF] → decode w = .error .reservedOp :=
    fun w hw => decode_eq_reservedOp.mpr <| mnemonicOfOp_eq_none.mpr <| opField_toNat w ▸ hw
  exact ⟨hreserved, hreserved _ (by decide), hreserved _ (by decide)⟩

end Sys2Proof.Proofs

namespace Sys2Proof.Machine

/-! ## Command sequences -/

/-- `RunsTo is s t`: the commands `is`, run one after another from `s`, lead to `t`. -/
inductive RunsTo : List Instr → State → State → Prop where
  | nil (s : State) : RunsTo [] s s
  | cons {i : Instr} {is : List Instr} {s t u : State} (h : exec i s = .next t) (hrest : RunsTo is t u) :
      RunsTo (i :: is) s u

section
variable {i : Instr} {is js : List Instr} {s t u : State}

theorem RunsTo.single (h : exec i s = .next t) : RunsTo [i] s t := .cons h (.nil t)

theorem runsTo_nil : RunsTo [] s t ↔ t = s :=
  ⟨fun h => by cases h; rfl, fun h => h ▸ .nil s⟩

theorem runsTo_cons : RunsTo (i :: is) s u ↔ ∃ t, exec i s = .next t ∧ RunsTo is t u :=
  ⟨fun h => by cases h with | cons h hrest => exact ⟨_, h, hrest⟩, fun ⟨_, h, hrest⟩ => .cons h hrest⟩

theorem RunsTo.append (h : RunsTo is s t) (hjs : RunsTo js t u) : RunsTo (is ++ js) s u := by
  induction h with
  | nil => exact hjs
  | cons h _ ih => exact .cons h (ih hjs)

/-- A command runs alike whatever words are still presented, and leaves them there (10_state.md R47). -/
theorem exec_withCmdIn (h : exec i s = .next t) (c : List Word16) :
    t.cmdIn = s.cmdIn ∧ exec i { s with cmdIn := c } = .next { t with cmdIn := c } := by
  obtain ⟨v, r, hv⟩ := answersOnce_exec i s
  obtain rfl : t = v.withPorts s.cmdIn (s.rspOut ++ [r]) := Host.Outcome.next.inj (h.symm.trans (hv s.cmdIn s.rspOut))
  exact ⟨rfl, hv c s.rspOut⟩

theorem run_succ_of_step (h : step s = .next t) (n : Nat) : Sys2Proof.core.run (n + 1) s = Sys2Proof.core.run n t := by
  simp [Host.Core.run, Sys2Proof.core, h]

/-- The machine takes a presented command sequence as its commands run one after another (30_encoding.md R70). -/
theorem RunsTo.run {rest : List Word16} (h : RunsTo is { s with cmdIn := rest } t)
    (hport : s.cmdIn = is.map encode ++ rest) : Sys2Proof.core.run is.length s = .next t := by
  induction is generalizing s with
  | nil =>
    obtain rfl : s.cmdIn = rest := hport
    exact congrArg _ (runsTo_nil.mp h).symm
  | cons i is ih =>
    obtain ⟨v, hexec, hrest⟩ := runsTo_cons.mp h
    obtain ⟨hv : v.cmdIn = rest, hexec'⟩ := exec_withCmdIn hexec (is.map encode ++ rest)
    have hstep : step s = .next { v with cmdIn := is.map encode ++ rest } :=
      (step_of_decode_ok hport (decode_eq_ok.mpr rfl)).trans hexec'
    have hback : RunsTo is { v with cmdIn := rest } t := by
      rwa [show { v with cmdIn := rest } = v by rw [← hv]]
    exact (run_succ_of_step hstep _).trans (ih hback rfl)

end

/-! ## The encoder memory -/

/-- M <- (b, M[1]) as a number (10_state.md R36). -/
theorem trellisNext_eq (q : StateNo) (b : Bit) : trellisNext q b = BitVec.ofNat 2 (2 * b.toNat + q.toNat / 2) := by
  revert q b; decide

@[simp] theorem stateM1_trellisNext (q : StateNo) (b : Bit) : stateM1 (trellisNext q b) = b := by revert q b; decide

@[simp] theorem stateM0_trellisNext (q : StateNo) (b : Bit) : stateM0 (trellisNext q b) = stateM1 q := by
  revert q b; decide

theorem stateM0_zero : stateM0 0 = false := rfl

theorem stateM1_zero : stateM1 0 = false := rfl

/-- Two shifts replace the whole memory. -/
theorem trellisNext_zeros (q : StateNo) : trellisNext (trellisNext q false) false = 0 := by revert q; decide

/-- The memory is the last two bits shifted in, the two of `q` standing before `bs` (10_state.md R21). -/
theorem memoryAfter_bits (q : StateNo) (bs : List Bit) :
    stateM1 (memoryAfter q bs) = (stateM0 q :: stateM1 q :: bs).reverse.getD 0 false ∧
    stateM0 (memoryAfter q bs) = (stateM0 q :: stateM1 q :: bs).reverse.getD 1 false := by
  induction bs using List.reverseRecOn with
  | nil => exact ⟨rfl, rfl⟩
  | append_singleton bs b ih =>
    have hlast : memoryAfter q (bs ++ [b]) = trellisNext (memoryAfter q bs) b := by simp [memoryAfter]
    rw [hlast, stateM1_trellisNext, stateM0_trellisNext, ih.1]
    simp

/-! ## The encoder's commands, when their checks pass -/

section
open Sys2Proof.Safety
variable {s : State}

theorem exec_encPad (hflt : s.flt = false) (hep : s.ep ≠ 2) : exec (.encPad false) s =
    .next { s with m := trellisNext s.m false, ep := s.ep + 1, rspOut := s.rspOut ++ [word 0] } := by
  refine execEncPad_next.mpr <| .inr <| .inr <| .inr ⟨hflt, hep, rfl, ?_⟩
  rw [answered_eq]
  rfl

theorem exec_encBit (hflt : s.flt = false) (hep : s.ep = 2) (b : Bit) : exec (.encBit b) s =
    .next { s with
      m := trellisNext s.m b, ene := true,
      rspOut := s.rspOut ++ [word (tripleNat (encOut b (stateM1 s.m) (stateM0 s.m)))] } := by
  refine execEncBit_next.mpr <| .inr <| .inr ⟨hflt, hep, ?_⟩
  rw [answered_eq, tripleData_toNat]
  rfl

theorem exec_encEnd (hflt : s.flt = false) (hene : s.ene = true) : exec .encEnd s =
    .next { s with ep := 0, ene := false, rspOut := s.rspOut ++ [word s.m.toNat] } := by
  refine execEncEnd_next.mpr <| .inr <| .inr ⟨hflt, hene, ?_⟩
  rw [answered_eq, stateData_toNat]
  rfl

/-! ## The parts of ENCODE (45_block_operations.md R141) -/

/-- The domain of encode: two zero pads and at least one message bit (45_block_operations.md R142). -/
theorem encodeDomain_eq_true {B : List Bit} : encodeDomain B = true ↔ ∃ b bs, B = false :: false :: b :: bs := by
  unfold encodeDomain
  split <;> simp_all

theorem runsTo_encPads (hflt : s.flt = false) (hep : s.ep = 0) :
    RunsTo [.encPad false, .encPad false] s { s with m := 0, ep := 2, rspOut := s.rspOut ++ [word 0, word 0] } := by
  have hfirst := exec_encPad hflt (by simp [hep])
  have hsecond := exec_encPad (s := { s with
    m := trellisNext s.m false, ep := s.ep + 1, rspOut := s.rspOut ++ [word 0] }) hflt (by simp [hep])
  simpa [trellisNext_zeros, hep] using RunsTo.cons hfirst (.single hsecond)

/-- Each `ENC.BIT` answers the triple of its bit and the two bits before it, which M holds. -/
theorem runsTo_encBits (hflt : s.flt = false) (hep : s.ep = 2) (bs : List Bit) :
    RunsTo (bs.map .encBit) s { s with
      m := memoryAfter s.m bs, ene := s.ene || !bs.isEmpty,
      rspOut := s.rspOut ++ (encodeTriples (stateM0 s.m :: stateM1 s.m :: bs)).map fun x => word (tripleNat x) } := by
  induction bs generalizing s with
  | nil => simpa [memoryAfter, encodeTriples] using RunsTo.nil s
  | cons b bs ih =>
    have hrest := ih (s := { s with
      m := trellisNext s.m b, ene := true,
      rspOut := s.rspOut ++ [word (tripleNat (encOut b (stateM1 s.m) (stateM0 s.m)))] }) hflt hep
    simpa [memoryAfter, encodeTriples] using RunsTo.cons (exec_encBit hflt hep b) hrest

/-- `ENC.END` after at least one message bit answers the memory that the bits have left. -/
theorem runsTo_encMessage (hflt : s.flt = false) (hep : s.ep = 2) {bs : List Bit} (hbs : bs ≠ []) :
    RunsTo (bs.map .encBit ++ [.encEnd]) s { s with
      m := memoryAfter s.m bs, ep := 0, ene := false,
      rspOut := s.rspOut ++ (encodeTriples (stateM0 s.m :: stateM1 s.m :: bs)).map (fun x => word (tripleNat x))
        ++ [word (memoryAfter s.m bs).toNat] } := by
  refine (runsTo_encBits hflt hep bs).append (.single (exec_encEnd ?_ ?_))
  · exact hflt
  · simp [hbs]

theorem runsTo_expandEncode (hflt : s.flt = false) (hep : s.ep = 0) (b : Bit) (bs : List Bit) :
    RunsTo (expandEncode (false :: false :: b :: bs)) s { s with
      m := memoryAfter 0 (b :: bs), ep := 0, ene := false,
      rspOut := s.rspOut ++ [word 0, word 0]
        ++ (encodeTriples (false :: false :: b :: bs)).map (fun x => word (tripleNat x))
        ++ [word (memoryAfter 0 (b :: bs)).toNat] } := by
  have hpads := runsTo_encPads hflt hep
  have hmessage := runsTo_encMessage (s := { s with m := 0, ep := 2, rspOut := s.rspOut ++ [word 0, word 0] })
    hflt rfl (List.cons_ne_nil b bs)
  rw [stateM0_zero, stateM1_zero] at hmessage
  exact hpads.append hmessage

end

end Sys2Proof.Machine

/-! ## The obligations of 40_encoder.md -/

namespace Sys2Proof.Proofs

open Sys2Proof.Machine Sys2Proof.Safety

/-- Settles O53: the pads, the message bits and ENC.END run one after another. -/
theorem encodeSequenceAnswersTheCodeword : Obligations.EncodeSequenceAnswersTheCodeword := by
  intro s B rest hflt hep hdom hport
  obtain ⟨b, bs, rfl⟩ := encodeDomain_eq_true.mp hdom
  obtain ⟨hm1, hm0⟩ := memoryAfter_bits 0 (b :: bs)
  exact ⟨_, (runsTo_expandEncode (s := { s with cmdIn := rest }) hflt hep b bs).run hport, if_pos hdom, rfl, hm1, hm0,
    rfl, rfl, rfl, ⟨rfl, rfl⟩, ⟨rfl, rfl, rfl, rfl⟩, rfl, rfl, rfl⟩

/-- Settles O29: each outcome is one of those ENC.PAD has while FLT = 0. -/
theorem encPadTakesOnePad : Obligations.EncPadTakesOnePad := by
  refine ⟨by decide, fun s hflt => ⟨fun b hep => ?sequence, fun hep => ?padNonZero, fun hep => ?completes⟩⟩
  case sequence => exact execEncPad_next.mpr <| .inr <| .inl ⟨hflt, hep, (faulted_eq s .sequence).symm⟩
  case padNonZero =>
    exact execEncPad_next.mpr <| .inr <| .inr <| .inl ⟨hflt, hep, rfl, (faulted_eq s .padNonZero).symm⟩
  case completes =>
    have hshift : trellisNext s.m false = BitVec.ofNat 2 (s.m.toNat / 2) := by simp [trellisNext_eq]
    exact hshift ▸ exec_encPad hflt hep

/-- Settles O30: the response is taken from the memory before the shift. -/
theorem encBitEncodesOneBit : Obligations.EncBitEncodesOneBit := by
  refine ⟨by decide, fun s b hflt => ⟨fun hep => ?sequence, fun hep => ?completes⟩⟩
  case sequence => exact execEncBit_next.mpr <| .inr <| .inl ⟨hflt, hep, (faulted_eq s .sequence).symm⟩
  case completes => exact trellisNext_eq s.m b ▸ exec_encBit hflt hep b

/-- Settles O31: ENE alone decides which of the two outcomes ENC.END has while FLT = 0. -/
theorem encEndClosesTheMessage : Obligations.EncEndClosesTheMessage := by
  refine ⟨by decide, fun s hflt => ⟨fun hene => ?_, exec_encEnd hflt⟩⟩
  exact execEncEnd_next.mpr <| .inr <| .inl ⟨hflt, hene, (faulted_eq s .lengthZero).symm⟩

/-- Settles O32: there are eight inputs. -/
theorem encoderOutputsByAddAndReduce : Obligations.EncoderOutputsByAddAndReduce := by
  unfold Obligations.EncoderOutputsByAddAndReduce
  decide

/-- Settles O33: the second pad replaces what the first one left of the old memory. -/
theorem twoPadsClearTheMemory : Obligations.TwoPadsClearTheMemory := by
  intro s hflt hep
  obtain ⟨t, hfirst, hrest⟩ := runsTo_cons.mp (runsTo_encPads hflt hep)
  obtain ⟨u, hsecond, hend⟩ := runsTo_cons.mp hrest
  obtain rfl := runsTo_nil.mp hend
  exact ⟨t, _, hfirst, hsecond, rfl, rfl, rfl, hflt⟩

end Sys2Proof.Proofs

namespace Sys2Proof.Machine

/-! ## The channel mapper (41_channel_mapper.md) -/

@[simp] theorem code_symOfBit (b : Bit) : (symOfBit b).code = b := by cases b <;> rfl

/-- The wire codes of the symbols of three bits are the bits (41_channel_mapper.md R101). -/
@[simp] theorem codes_symbols (x : Triple Bit) : (x.map symOfBit).map Sym.code = x := by simp [Triple.map]

theorem channelBlock_flattenTriples (ts : List (Triple Bit)) :
    channelBlock (flattenTriples ts) = flattenTriples (ts.map (Triple.map symOfBit)) := by
  simp [channelBlock, flattenTriples, List.map_flatMap, List.flatMap_map, Triple.toList, Triple.map]

section
open Sys2Proof.Safety
variable {s : State}

/-- The word of `MAP.TRI` (30_encoding.md R76). -/
theorem encode_mapTri (x : Triple Bit) : encode (.mapTri x) = BitVec.ofNat 16 (0x7000 + tripleNat x) := by
  obtain ⟨x0, x1, x2⟩ := x
  revert x0 x1 x2
  decide

theorem exec_mapTri (hflt : s.flt = false) (x : Triple Bit) :
    exec (.mapTri x) s = .next { s with rspOut := s.rspOut ++ [word (tripleNat x)] } := by
  refine execMapTri_next.mpr <| .inr ⟨hflt, ?_⟩
  rw [codes_symbols, answered_eq, tripleData_toNat]
  rfl

/-- Each `MAP.TRI` leaves FLT = 0, so the next one completes too (45_block_operations.md R143). -/
theorem runsTo_expandChannel (hflt : s.flt = false) (ts : List (Triple Bit)) :
    RunsTo (expandChannel ts) s { s with rspOut := s.rspOut ++ ts.map fun x => word (tripleNat x) } := by
  induction ts generalizing s with
  | nil => simpa [expandChannel] using RunsTo.nil s
  | cons x ts ih =>
    have hrest := ih (s := { s with rspOut := s.rspOut ++ [word (tripleNat x)] }) hflt
    simpa [expandChannel] using RunsTo.cons (exec_mapTri hflt x) hrest

end

end Sys2Proof.Machine

/-! ## The obligations of 41_channel_mapper.md -/

namespace Sys2Proof.Proofs

open Sys2Proof.Machine Sys2Proof.Safety

/-- Settles O54: the response triples, read as symbols, are those of the mapped bits. -/
theorem channelSequenceAnswersTheSymbols : Obligations.ChannelSequenceAnswersTheSymbols := by
  intro s ts rest hflt hport
  refine ⟨ts.map (Triple.map symOfBit), channelBlock_flattenTriples ts, List.length_map _, ?_⟩
  simpa [Function.comp_def] using (runsTo_expandChannel (s := { s with cmdIn := rest }) hflt ts).run hport

/-- Settles O35: the mapper has no check of the phase. -/
theorem mapTriIsTheIdentityOnTheWire : Obligations.MapTriIsTheIdentityOnTheWire :=
  ⟨encode_mapTri, codes_symbols, fun _ x hflt => exec_mapTri hflt x⟩

end Sys2Proof.Proofs

namespace Sys2Proof.Machine

/-! ## Comparison of metrics and the selection of an edge (42_forward_recursion.md R110, R112, R114) -/

@[simp] theorem mge_self (a : Metric) : mge a a = true := by cases a <;> simp

theorem mge_unr_left_iff {a : Metric} : mge .unr a = true ↔ a = .unr := by cases a <;> simp

theorem mge_val_val_iff {v w : Int} : mge (.val v) (.val w) = true ↔ w ≤ v := by simp

theorem mge_of_not_mge {a b : Metric} (h : mge a b = false) : mge b a = true := by
  cases a with
  | unr => exact mge_unr b
  | val v =>
    cases b with
    | unr => simp at h
    | val w =>
      rw [mge_val_val, decide_eq_false_iff_not] at h
      rw [mge_val_val_iff]
      omega

theorem mge_trans {a b c : Metric} (hab : mge a b = true) (hbc : mge b c = true) : mge a c = true := by
  cases c with
  | unr => exact mge_unr a
  | val w =>
    cases b with
    | unr => simp at hbc
    | val v =>
      cases a with
      | unr => simp at hab
      | val u =>
        rw [mge_val_val_iff] at *
        omega

@[simp] theorem mge_madd (a b : Metric) (n : Int) : mge (madd a n) (madd b n) = mge a b := by
  cases a <;> cases b <;> simp

theorem madd_eq_val {a : Metric} {n v : Int} : madd a n = .val v ↔ ∃ w, a = .val w ∧ w + n = v := by
  cases a <;> simp

section
variable {row : Row Metric} {y : Triple Sym} {d : StateNo}

theorem selectEdge_of_mge (h : mge (candidate row y d false) (candidate row y d true) = true) :
    selectEdge row y d = (candidate row y d false, false) := if_pos h

theorem selectEdge_of_not_mge (h : mge (candidate row y d false) (candidate row y d true) = false) :
    selectEdge row y d = (candidate row y d true, true) := if_neg (by simp [h])

/-- The winner is at least both candidates. -/
theorem mge_selectEdge (p : Bit) : mge (selectEdge row y d).1 (candidate row y d p) = true := by
  cases hm : mge (candidate row y d false) (candidate row y d true) with
  | true =>
    rw [selectEdge_of_mge hm]
    cases p
    · exact mge_self _
    · exact hm
  | false =>
    rw [selectEdge_of_not_mge hm]
    cases p
    · exact mge_of_not_mge hm
    · exact mge_self _

/-- The second edge wins only against a smaller candidate. -/
theorem not_mge_of_selectEdge_snd (h : (selectEdge row y d).2 = true) :
    mge (candidate row y d false) (candidate row y d true) = false := by
  by_contra hm
  rw [selectEdge_of_mge (Bool.not_eq_false _ ▸ hm)] at h
  exact Bool.false_ne_true h

/-- The winner is reachable exactly when one of the two origins is. -/
theorem selectEdge_ne_unr : (selectEdge row y d).1 ≠ .unr ↔ ∃ p, row.get (org (edgeNo d p)) ≠ .unr := by
  constructor
  · intro h
    rw [selectEdge_fst] at h
    exact ⟨_, madd_ne_unr.mp h⟩
  · rintro ⟨p, hp⟩ hunr
    have hcand : candidate row y d p = .unr := mge_unr_left_iff.mp (hunr ▸ mge_selectEdge p)
    exact madd_ne_unr.mpr hp hcand

end

/-! ## The rows of the recursion (42_forward_recursion.md R112) -/

section
open Sys2Proof.Safety
variable {ys : List (Triple Sym)} {y : Triple Sym} {n : Nat} (q : StateNo)

theorem rowAfter_length (ys : List (Triple Sym)) : rowAfter ys ys.length = metricsAfter initRow ys := by simp [rowAfter]

theorem metricsAfter_append_singleton_get (row : Row Metric) (ys : List (Triple Sym)) (y : Triple Sym) :
    (metricsAfter row (ys ++ [y])).get q = (selectEdge (metricsAfter row ys) y q).1 := by
  simp [metricsAfter, Row.get_map, forwardRow_get]

theorem rowAfter_succ_get (h : ys[n]? = some y) :
    (rowAfter ys (n + 1)).get q = (selectEdge (rowAfter ys n) y q).1 := by
  rw [rowAfter, List.take_add_one, h]
  exact metricsAfter_append_singleton_get q _ _ y

theorem forwardRows_getElem? (row : Row Metric) (ys : List (Triple Sym)) (n : Nat) :
    (forwardRows row ys)[n]? = ys[n]?.map (forwardRow (metricsAfter row (ys.take n))) := by
  induction ys generalizing row n with
  | nil => simp [forwardRows]
  | cons y ys ih =>
    cases n with
    | zero => simp [forwardRows, metricsAfter]
    | succ n => simpa [forwardRows, metricsAfter] using ih ((forwardRow row y).map Prod.fst) n

theorem codeAt_forwardRows (h : ys[n]? = some y) :
    codeAt (forwardRows initRow ys) (n + 1) q = (selectEdge (rowAfter ys n) y q).2 := by
  simp [codeAt, forwardRows_getElem?, h, forwardRow_get, rowAfter]

theorem codeAt_append_singleton (ys : List (Triple Sym)) (y : Triple Sym) :
    codeAt (forwardRows initRow (ys ++ [y])) (ys ++ [y]).length q = (selectEdge (metricsAfter initRow ys) y q).2 := by
  rw [List.length_append, List.length_singleton, codeAt_forwardRows q (y := y) (by simp), rowAfter, List.take_left]

theorem initRow_get_ne_unr {q : StateNo} : initRow.get q ≠ .unr ↔ q = 0 := by revert q; decide

/-- Which cells are reachable is the same for every sequence of triples (42_forward_recursion.md R113). -/
theorem rowAfter_ne_unr (hn : n ≤ ys.length) :
    (rowAfter ys n).get q ≠ .unr ↔ (n = 0 ∧ q = 0) ∨ (n = 1 ∧ (q = 0 ∨ q = 2)) ∨ 2 ≤ n := by
  induction n generalizing q with
  | zero => simp [rowAfter, metricsAfter, initRow_get_ne_unr]
  | succ n ih =>
    rw [rowAfter_succ_get q (List.getElem?_eq_getElem hn), selectEdge_ne_unr]
    simp only [ih _ (Nat.le_of_succ_le hn)]
    have hfirst : (∃ p, org (edgeNo q p) = 0) ↔ q = 0 ∨ q = 2 := by revert q; decide
    have hsecond : org (edgeNo q false) = 0 ∨ org (edgeNo q false) = 2 := by revert q; decide
    match n with
    | 0 => simpa using hfirst
    | 1 => simpa using Or.inl hsecond
    | n + 2 => simp

end

/-! ## Paths (42_forward_recursion.md R116) -/

/-- `bits` is a path through the trellis from state 0 to `q`, a step for each triple, with score `v`. -/
structure PathTo (ys : List (Triple Sym)) (q : StateNo) (v : Int) (bits : List Bit) : Prop where
  length : bits.length = ys.length
  ends : pathEnd 0 bits = q
  score : pathScore 0 bits ys = v

theorem pathTo_iff {ys : List (Triple Sym)} {q : StateNo} {v : Int} {bits : List Bit} :
    PathTo ys q v bits ↔ bits.length = ys.length ∧ pathEnd 0 bits = q ∧ pathScore 0 bits ys = v :=
  ⟨fun ⟨hlength, hends, hscore⟩ => ⟨hlength, hends, hscore⟩, fun ⟨hlength, hends, hscore⟩ => ⟨hlength, hends, hscore⟩⟩

@[simp] theorem pathEnd_append_singleton (q : StateNo) (bits : List Bit) (b : Bit) :
    pathEnd q (bits ++ [b]) = trellisNext (pathEnd q bits) b := by simp [pathEnd]

theorem pathScore_append_singleton {bits : List Bit} {ys : List (Triple Sym)} (h : bits.length = ys.length)
    (q : StateNo) (b : Bit) (y : Triple Sym) :
    pathScore q (bits ++ [b]) (ys ++ [y]) = pathScore q bits ys + branchMetric y (edgeFrom (pathEnd q bits) b) := by
  induction bits generalizing q ys with
  | nil =>
    obtain rfl : ys = [] := List.length_eq_zero_iff.mp h.symm
    simp [pathScore, pathEnd]
  | cons c bits ih =>
    cases ys with
    | nil => simp at h
    | cons z ys => simp [pathScore, pathEnd, ih (Nat.succ_inj.mp h), Int.add_assoc]

/-- The edge with code `p` into `d` is the one that leaves its origin on its label. -/
@[simp] theorem edgeFrom_org (d : StateNo) (p : Bit) : edgeFrom (org (edgeNo d p)) (lbl (edgeNo d p)) = edgeNo d p := by
  revert d p; decide

@[simp] theorem stateM0_org (d : StateNo) (p : Bit) : stateM0 (org (edgeNo d p)) = p := by revert d p; decide

theorem edgeFrom_ne_otherEdge (q : StateNo) (b : Bit) : edgeFrom q b ≠ edgeNo (trellisNext q b) (!stateM0 q) := by
  revert q b; decide

@[simp] theorem org_edgeFrom (q : StateNo) (b : Bit) : org (edgeFrom q b) = q := by revert q b; decide

section
variable {ys : List (Triple Sym)} {y : Triple Sym} {q : StateNo} {v : Int} {bits : List Bit}

/-- A path is extended by the edge with code `p` into the next state. -/
theorem PathTo.extend {p : Bit} (h : PathTo ys (org (edgeNo q p)) v bits) :
    PathTo (ys ++ [y]) q (v + branchMetric y (edgeNo q p)) (bits ++ [lbl (edgeNo q p)]) where
  length := by simp [h.length]
  ends := by rw [pathEnd_append_singleton, h.ends, trellisNext_org]
  score := by rw [pathScore_append_singleton h.length, h.ends, h.score, edgeFrom_org]

/-- The last edge of a path is the one into its end whose code is m0 of the state before (10_state.md R35). -/
theorem PathTo.lastEdge (h : PathTo (ys ++ [y]) q v bits) :
    ∃ w, PathTo ys (org (edgeNo q (stateM0 (pathEnd 0 bits.dropLast)))) w bits.dropLast ∧
      w + branchMetric y (edgeNo q (stateM0 (pathEnd 0 bits.dropLast))) = v := by
  obtain rfl | ⟨bits, b, rfl⟩ := bits.eq_nil_or_concat'
  · simpa using h.length
  · obtain ⟨hlength, rfl, rfl⟩ := h
    have hlen : bits.length = ys.length := by simpa using hlength
    rw [pathScore_append_singleton hlen, List.dropLast_concat, pathEnd_append_singleton]
    exact ⟨_, ⟨hlen, (org_edgeFrom _ b).symm, rfl⟩, rfl⟩

section
variable {row : Row Metric}

/-- A path that ends with the edge with code `p` scores no more than the candidate of that edge, where no path to its
origin scores more than the origin's metric. -/
theorem PathTo.mge_candidate
    (hrow : ∀ {o : StateNo} {w : Int} {as : List Bit}, PathTo ys o w as → mge (row.get o) (.val w) = true)
    (h : PathTo (ys ++ [y]) q v bits) :
    mge (candidate row y q (stateM0 (pathEnd 0 bits.dropLast))) (.val v) = true := by
  obtain ⟨w, hpath, rfl⟩ := h.lastEdge
  rw [candidate, ← madd_val, mge_madd]
  exact hrow hpath

/-- The candidate of the edge with code `p` is the score of a path that ends with it, where each origin's metric is the
score of a path to it. -/
theorem exists_pathTo_of_candidate {p : Bit}
    (hrow : ∀ {o : StateNo} {w : Int}, row.get o = .val w → ∃ as, PathTo ys o w as)
    (h : candidate row y q p = .val v) :
    ∃ bits, PathTo (ys ++ [y]) q v bits ∧ stateM0 (pathEnd 0 bits.dropLast) = p := by
  obtain ⟨w, horigin, rfl⟩ := madd_eq_val.mp h
  obtain ⟨as, has⟩ := hrow horigin
  exact ⟨_, has.extend, by rw [List.dropLast_concat, has.ends, stateM0_org]⟩

end

/-- No path scores more than the metric of the state it ends in. -/
theorem PathTo.mge_metric (h : PathTo ys q v bits) : mge ((metricsAfter initRow ys).get q) (.val v) = true := by
  induction ys using List.reverseRecOn generalizing q v bits with
  | nil =>
    obtain ⟨hlength, rfl, rfl⟩ := h
    obtain rfl : bits = [] := List.length_eq_zero_iff.mp hlength
    decide
  | append_singleton ys y ih =>
    rw [metricsAfter_append_singleton_get]
    exact mge_trans (mge_selectEdge _) (h.mge_candidate ih)

/-- An integer metric is the score of a path. -/
theorem exists_pathTo_of_metric (h : (metricsAfter initRow ys).get q = .val v) : ∃ bits, PathTo ys q v bits := by
  induction ys using List.reverseRecOn generalizing q v with
  | nil =>
    have hinit : initRow.get q = .val v → q = 0 ∧ v = 0 := by
      obtain rfl | rfl | rfl | rfl := stateNo_cases q <;> simp [initRow, Row.get, eq_comm]
    obtain ⟨rfl, rfl⟩ := hinit h
    exact ⟨[], rfl, rfl, rfl⟩
  | append_singleton ys y ih =>
    rw [metricsAfter_append_singleton_get, selectEdge_fst] at h
    obtain ⟨bits, hbits, -⟩ := exists_pathTo_of_candidate ih h
    exact ⟨bits, hbits⟩

theorem metric_eq_unr : (metricsAfter initRow ys).get q = .unr ↔ ∀ v bits, ¬PathTo ys q v bits := by
  constructor
  · intro h v bits hpath
    simpa [h] using hpath.mge_metric
  · intro h
    cases hm : (metricsAfter initRow ys).get q with
    | unr => rfl
    | val v =>
      obtain ⟨bits, hpath⟩ := exists_pathTo_of_metric hm
      exact absurd hpath (h v bits)

theorem metric_eq_val : (metricsAfter initRow ys).get q = .val v ↔
    (∃ bits, PathTo ys q v bits) ∧ ∀ w bits, PathTo ys q w bits → w ≤ v := by
  constructor
  · intro h
    exact ⟨exists_pathTo_of_metric h, fun w bits hpath => mge_val_val_iff.mp (h ▸ hpath.mge_metric)⟩
  · rintro ⟨⟨bits, hbest⟩, hmax⟩
    cases hm : (metricsAfter initRow ys).get q with
    | unr => exact absurd hbest (metric_eq_unr.mp hm v bits)
    | val w =>
      obtain ⟨bits', hpath⟩ := exists_pathTo_of_metric hm
      have hvw : v ≤ w := mge_val_val_iff.mp (hm ▸ hbest.mge_metric)
      rw [Int.le_antisymm (hmax w bits' hpath) hvw]

/-- The code of the last step names the last edge of a best path. -/
theorem exists_pathTo_by_code (h : (metricsAfter initRow (ys ++ [y])).get q = .val v) :
    ∃ bits, PathTo (ys ++ [y]) q v bits ∧
      stateM0 (pathEnd 0 bits.dropLast) = (selectEdge (metricsAfter initRow ys) y q).2 := by
  rw [metricsAfter_append_singleton_get, selectEdge_fst] at h
  exact exists_pathTo_of_candidate exists_pathTo_of_metric h

/-- When the code is 1, the first edge's candidate is smaller, so every best path ends with the second edge. -/
theorem PathTo.lastEdge_of_code_true (h : PathTo (ys ++ [y]) q v bits)
    (hv : (metricsAfter initRow (ys ++ [y])).get q = .val v)
    (hcode : (selectEdge (metricsAfter initRow ys) y q).2 = true) : stateM0 (pathEnd 0 bits.dropLast) = true := by
  rw [metricsAfter_append_singleton_get, selectEdge_fst, hcode] at hv
  by_contra hfirst
  have hge := h.mge_candidate PathTo.mge_metric
  rw [Bool.eq_false_iff.mpr hfirst, ← hv, not_mge_of_selectEdge_snd hcode] at hge
  exact Bool.false_ne_true hge

end

/-! ## Branch metrics (42_forward_recursion.md R108, R109) -/

theorem symInt_mul_symInt (a b : Sym) : symInt a * symInt b = 1 - 2 * if a = b then 0 else 1 := by
  cases a <;> cases b <;> decide

theorem branchMetric_eq (y : Triple Sym) (e : EdgeNo) : branchMetric y e =
    3 - 2 * ((if y.x0 = (refOut e).x0 then 0 else 1) + (if y.x1 = (refOut e).x1 then 0 else 1)
      + (if y.x2 = (refOut e).x2 then 0 else 1)) := by
  simp only [branchMetric, symInt_mul_symInt]
  omega

theorem branchMetric_eq_three {y : Triple Sym} {e : EdgeNo} : branchMetric y e = 3 ↔ y = refOut e := by
  rw [branchMetric_eq]
  constructor
  · intro h
    split_ifs at h with h0 h1 h2
    case pos => exact congr (congr (congrArg Triple.mk h0) h1) h2
    all_goals omega
  · rintro rfl
    simp

theorem refOut_injective {e e' : EdgeNo} : refOut e = refOut e' ↔ e = e' := by revert e e'; decide

theorem symOfBit_code (v : Sym) : symOfBit v.code = v := by cases v <;> rfl

theorem refOut_surjective (y : Triple Sym) : ∃ e, refOut e = y := by
  have hbits : ∀ a b c : Bit, ∃ e, refOut e = ⟨symOfBit a, symOfBit b, symOfBit c⟩ := by decide
  simpa only [symOfBit_code] using hbits y.x0.code y.x1.code y.x2.code

/-! ## The transmitted path (42_forward_recursion.md R117) -/

/-- Where a state has the largest metric of its row and the encoder's own triple is received, the other edge into the
next state loses: its branch metric is not +3 (42_forward_recursion.md R109). -/
theorem mge_otherCandidate {row : Row Metric} {o : StateNo} {v : Int} (ho : row.get o = .val v)
    (hmax : ∀ q w, row.get q = .val w → w ≤ v) (b : Bit) :
    mge (candidate row (refOut (edgeFrom o b)) (trellisNext o b) (!stateM0 o))
      (candidate row (refOut (edgeFrom o b)) (trellisNext o b) (stateM0 o)) = false := by
  have hsent : candidate row (refOut (edgeFrom o b)) (trellisNext o b) (stateM0 o) = .val (v + 3) := by
    have hbm : branchMetric (refOut (edgeFrom o b)) (edgeFrom o b) = 3 := branchMetric_eq_three.mpr rfl
    show madd (row.get (org (edgeFrom o b))) (branchMetric _ (edgeFrom o b)) = _
    rw [org_edgeFrom, ho, hbm, madd_val]
  have hother : branchMetric (refOut (edgeFrom o b)) (edgeNo (trellisNext o b) (!stateM0 o)) < 3 := by
    refine lt_of_le_of_ne (branchMetric_bound _ _).2 fun h3 => edgeFrom_ne_otherEdge o b ?_
    exact refOut_injective.mp (branchMetric_eq_three.mp h3)
  rw [hsent, candidate]
  cases hrow : row.get (org (edgeNo (trellisNext o b) (!stateM0 o))) with
  | unr => rfl
  | val w =>
    have hw := hmax _ w hrow
    rw [madd_val, mge_val_val, decide_eq_false_iff_not]
    omega

/-- What an error-free channel delivers of the message bits `bs` after the encoder has reached state `q`. -/
def sentFrom (q : StateNo) (bs : List Bit) : List (Triple Sym) :=
  (encodeTriples (stateM0 q :: stateM1 q :: bs)).map (Triple.map symOfBit)

section
variable (q : StateNo) (b : Bit) (bs : List Bit)

theorem sentTriples_eq (msg : List Bit) : Safety.sentTriples msg = sentFrom 0 msg := rfl

@[simp] theorem sentFrom_nil : sentFrom q [] = [] := rfl

/-- The encoder sends the reference triple of the edge it takes (10_state.md R33). -/
@[simp] theorem sentFrom_cons : sentFrom q (b :: bs) = refOut (edgeFrom q b) :: sentFrom (trellisNext q b) bs := by
  simp [sentFrom, encodeTriples, edgeFrom, refOut_edgeNo]

@[simp] theorem sentFrom_length : (sentFrom q bs).length = bs.length := by
  induction bs generalizing q with
  | nil => rfl
  | cons b bs ih => simp [ih]

theorem sentFrom_take (n : Nat) : (sentFrom q bs).take n = sentFrom q (bs.take n) := by
  induction bs generalizing q n with
  | nil => simp
  | cons b bs ih => cases n <;> simp [ih]

theorem sentFrom_getElem? (n : Nat) :
    (sentFrom q bs)[n]? = bs[n]?.map fun b => refOut (edgeFrom (pathEnd q (bs.take n)) b) := by
  induction bs generalizing q n with
  | nil => simp
  | cons b bs ih => cases n <;> simp [ih, pathEnd]

theorem pathScore_sentFrom : pathScore q bs (sentFrom q bs) = 3 * bs.length := by
  induction bs generalizing q with
  | nil => rfl
  | cons b bs ih =>
    rw [sentFrom_cons, pathScore, ih, branchMetric_eq_three.mpr rfl, List.length_cons]
    push_cast
    omega

theorem pathScore_le (ys : List (Triple Sym)) : pathScore q bs ys ≤ 3 * ys.length := by
  induction bs generalizing q ys with
  | nil => simp [pathScore]
  | cons b bs ih =>
    cases ys with
    | nil => simp [pathScore]
    | cons y ys =>
      have hedge := (branchMetric_bound y (edgeFrom q b)).2
      have hrest := ih (trellisNext q b) ys
      simp only [pathScore, List.length_cons]
      push_cast
      omega

end

theorem metric_le_three_mul {ys : List (Triple Sym)} {q : StateNo} {v : Int}
    (h : (metricsAfter initRow ys).get q = .val v) : v ≤ 3 * ys.length := by
  obtain ⟨bits, -, -, rfl⟩ := exists_pathTo_of_metric h
  exact pathScore_le 0 bits ys

theorem metric_sentFrom (bs : List Bit) :
    (metricsAfter initRow (sentFrom 0 bs)).get (pathEnd 0 bs) = .val (3 * bs.length) := by
  refine metric_eq_val.mpr ⟨⟨bs, (sentFrom_length 0 bs).symm, rfl, pathScore_sentFrom 0 bs⟩, ?_⟩
  rintro w bits ⟨-, -, rfl⟩
  simpa using pathScore_le 0 bits (sentFrom 0 bs)

theorem rowAfter_sentTriples (msg : List Bit) (n : Nat) :
    Safety.rowAfter (Safety.sentTriples msg) n = metricsAfter initRow (sentFrom 0 (msg.take n)) := by
  rw [Safety.rowAfter, sentTriples_eq, sentFrom_take]

/-! ## The FMR commands, when their checks pass -/

section
open Sys2Proof.Safety
variable {s : State}

theorem encode_fmrStep (y : Triple Sym) :
    encode (.fmrStep y) = BitVec.ofNat 16 (0x9000 + tripleNat (y.map Sym.code)) := by
  have hcodes : ∀ a b c : Bit, encode (.fmrStep ((⟨a, b, c⟩ : Triple Bit).map Sym.ofCode)) =
      BitVec.ofNat 16 (0x9000 + tripleNat ⟨a, b, c⟩) := by decide
  have h := hcodes y.x0.code y.x1.code y.x2.code
  rwa [show (⟨y.x0.code, y.x1.code, y.x2.code⟩ : Triple Bit) = y.map Sym.code from rfl, map_ofCode_map_code] at h

theorem encode_fmrRdm (q : StateNo) : encode (.fmrRdm q) = BitVec.ofNat 16 (0xA000 + q.toNat) := by
  revert q; decide

/-- The edges into `d` and their origins as numbers (10_state.md R32, R35). -/
theorem edgeNo_numbers (d1 d0 p : Bit) :
    BitVec.ofNat 3 (2 * (BitVec.ofNat 2 (2 * d1.toNat + d0.toNat)).toNat + p.toNat) =
      edgeNo (BitVec.ofNat 2 (2 * d1.toNat + d0.toNat)) p ∧
    BitVec.ofNat 2 (2 * d0.toNat + p.toNat) = org (edgeNo (BitVec.ofNat 2 (2 * d1.toNat + d0.toNat)) p) := by
  revert d1 d0 p; decide

theorem candidate_dRow (s : State) (t : Nat) (y : Triple Sym) (d1 d0 p : Bit) :
    candidate (s.dRow t) y (BitVec.ofNat 2 (2 * d1.toNat + d0.toNat)) p =
      madd (s.dCell t (BitVec.ofNat 2 (2 * d0.toNat + p.toNat)))
        (branchMetric y (BitVec.ofNat 3 (2 * (BitVec.ofNat 2 (2 * d1.toNat + d0.toNat)).toNat + p.toNat))) := by
  obtain ⟨hedge, horg⟩ := edgeNo_numbers d1 d0 p
  rw [hedge, horg, candidate, State.dRow_get]

/-- A row of D is determined by its cells. -/
theorem State.dRow_eq {t : Nat} {r : Row Metric} (h : ∀ q, s.dCell t q = r.get q) : s.dRow t = r := by
  obtain ⟨r0, r1, r2, r3⟩ := r
  exact congr (congr (congr (congrArg Row.mk (h 0)) (h 1)) (h 2)) (h 3)

theorem exec_fmrStep (hflt : s.flt = false) (hdp : s.dp = .fwd) (ht : s.t.toNat < s.cfg.nmax) (y : Triple Sym) :
    exec (.fmrStep y) s = .next { s.forward y with rspOut := s.rspOut ++ [word (s.t.toNat + 1)] } := by
  refine execFmrStep_next.mpr <| .inr <| .inr <| .inr ⟨hflt, hdp, ht, ?_⟩
  rw [answered_eq, countData_toNat, toNat_count_succ ht]
  rfl

theorem State.forward_dCell (s : State) (y : Triple Sym) (n : Nat) (q : StateNo) : (s.forward y).dCell n q =
    if n = s.t.toNat + 1 then (selectEdge (s.dRow s.t.toNat) y q).1 else s.dCell n q := by
  simp [State.dCell_writeDRow, Row.get_map, forwardRow_get]

theorem State.forward_pCell (s : State) (y : Triple Sym) (n : Nat) (q : StateNo) : (s.forward y).pCell n q =
    if n = s.t.toNat + 1 then (selectEdge (s.dRow s.t.toNat) y q).2 else s.pCell n q := by
  simp [State.pCell_writePRow, Row.get_map, forwardRow_get]

theorem State.forward_newRow (s : State) (y : Triple Sym) {q : StateNo} {v : Metric} {p : Bit}
    (h : selectEdge (s.dRow s.t.toNat) y q = (v, p)) :
    (s.forward y).dCell (s.t.toNat + 1) q = v ∧ (s.forward y).pCell (s.t.toNat + 1) q = p := by
  rw [State.forward_dCell, State.forward_pCell, if_pos rfl, if_pos rfl, h]
  exact ⟨rfl, rfl⟩

theorem exec_fmrInit (hflt : s.flt = false) : exec .fmrInit s =
    .next { s with
      mem := { s.mem with d := writeRow s.mem.d 0 initRow }, t := 0, dp := .fwd, rspOut := s.rspOut ++ [word 0] } := by
  refine execFmrInit_next.mpr <| .inr ⟨hflt, ?_⟩
  rw [answered_eq]
  rfl

theorem exec_fmrRdm_unr (hflt : s.flt = false) (hdp : s.dp ≠ .idle) {q : StateNo} (hq : s.dCell s.t.toNat q = .unr) :
    exec (.fmrRdm q) s = .next { s with rspOut := s.rspOut ++ [word 0x10000] } := by
  refine execFmrRdm_next.mpr <| .inr <| .inr ⟨hflt, hdp, respondMetric_next.mpr <| .inl ⟨hq, ?_⟩⟩
  exact (congrArg s.emit packResponse_unr).symm

theorem exec_fmrRdm_val (hflt : s.flt = false) (hdp : s.dp ≠ .idle) {q : StateNo} {v : Int}
    (hq : s.dCell s.t.toNat q = .val v) :
    exec (.fmrRdm q) s = .next { s with rspOut := s.rspOut ++ [word (v % 65536).toNat] } := by
  refine execFmrRdm_next.mpr <| .inr <| .inr ⟨hflt, hdp, respondMetric_next.mpr <| .inr ⟨v, hq, ?_⟩⟩
  rw [answered_eq, BitVec.toNat_ofInt]
  rfl

end

end Sys2Proof.Machine

namespace Sys2Proof.Safety

open Sys2Proof.Machine

/-! ## The stored rows are rows of the recursion -/

/-- The rows a run has stored are those of one sequence of triples (42_forward_recursion.md R112). -/
theorem Inv.exists_triples {s : State} (h : Inv s) (hdp : s.dp ≠ .idle) :
    ∃ ys : List (Triple Sym), ys.length = s.t.toNat ∧ (∀ n, n ≤ s.t.toNat → s.dRow n = rowAfter ys n) ∧
      ∀ n q, n < s.t.toNat → s.pCell (n + 1) q = codeAt (forwardRows initRow ys) (n + 1) q := by
  choose f hf using fun n : Fin s.t.toNat => h.forward_cells hdp n.isLt
  have hget : ∀ n (hn : n < s.t.toNat), (List.ofFn f)[n]? = some (f ⟨n, hn⟩) := fun n hn => by simp [hn]
  have hrows : ∀ n, n ≤ s.t.toNat → s.dRow n = rowAfter (List.ofFn f) n := by
    intro n hn
    induction n with
    | zero => exact State.dRow_eq (h.dCell_zero hdp)
    | succ n ih =>
      refine State.dRow_eq fun q => ?_
      rw [rowAfter_succ_get q (hget n hn), ← ih (Nat.le_of_succ_le hn)]
      exact (hf ⟨n, hn⟩ q).1
  refine ⟨List.ofFn f, List.length_ofFn, hrows, fun n q hn => ?_⟩
  rw [codeAt_forwardRows q (hget n hn), ← hrows n hn.le]
  exact (hf ⟨n, hn⟩ q).2

end Sys2Proof.Safety

/-! ## The obligations of 42_forward_recursion.md -/

namespace Sys2Proof.Proofs

open Sys2Proof.Machine Sys2Proof.Safety

/-- Settles O24: the invariant gives a triple for each row, and the rows follow by induction. -/
theorem storedRowsFollowTheRecursion : Obligations.StoredRowsFollowTheRecursion := by
  intro s hinv hdp
  obtain ⟨ys, hlength, hrows, hcodes⟩ := hinv.exists_triples hdp
  refine ⟨ys, hlength, fun n q hn => ?_, fun n q h1 hn => ?_⟩
  · rw [← hrows n hn, State.dRow_get]
  · obtain ⟨n, rfl⟩ := Nat.exists_eq_add_of_le' h1
    exact hcodes n q hn

/-- Settles O23: the stored rows are those of a sequence of triples, and reachability does not depend on it. -/
theorem reachabilityIsFixedByTheTrellis : Obligations.ReachabilityIsFixedByTheTrellis := by
  intro s hinv hdp n q hn
  obtain ⟨ys, hlength, hd, -⟩ := storedRowsFollowTheRecursion s hinv hdp
  rw [hd n q hn]
  exact rowAfter_ne_unr q (hlength ▸ hn)

/-- Settles O39: the candidates are read from the old row T, and the winners are written to row T + 1. -/
theorem fmrStepSelectsTheBetterEdge : Obligations.FmrStepSelectsTheBetterEdge := by
  refine ⟨encode_fmrStep, fun s y hflt => ⟨fun hdp => ?sequence, fun hdp ht => ?capacity, fun hdp ht => ?completes⟩⟩
  case sequence => exact execFmrStep_next.mpr <| .inr <| .inl ⟨hflt, hdp, (faulted_eq s .sequence).symm⟩
  case capacity =>
    exact execFmrStep_next.mpr <| .inr <| .inr <| .inl ⟨hflt, hdp, ht.ge, (faulted_eq s .capacity).symm⟩
  case completes =>
    refine ⟨_, exec_fmrStep hflt hdp ht y, fun d1 d0 => ?row, toNat_count_succ ht, rfl, hdp, rfl, rfl, ⟨rfl, rfl, rfl⟩,
      ⟨rfl, rfl⟩, ⟨rfl, rfl, rfl⟩, fun n q hn => ⟨?_, ?_⟩, fun _ => rfl⟩
    case row =>
      intro d o0 o1 c0 c1
      have h0 : candidate (s.dRow s.t.toNat) y d false = c0 := candidate_dRow s s.t.toNat y d1 d0 false
      have h1 : candidate (s.dRow s.t.toNat) y d true = c1 := candidate_dRow s s.t.toNat y d1 d0 true
      rw [← h0, ← h1]
      exact ⟨fun hm => s.forward_newRow y (selectEdge_of_mge hm),
        fun hm => s.forward_newRow y (selectEdge_of_not_mge hm)⟩
    · exact (s.forward_dCell y n q).trans (if_neg hn)
    · exact (s.forward_pCell y n q).trans (if_neg hn)

/-- Settles O42: an integer metric is the score of a path, and no path scores more; both by induction on the triples. -/
theorem pathMetricIsTheBestPath : Obligations.PathMetricIsTheBestPath := by
  intro ys q
  rw [rowAfter_length]
  refine ⟨?unr, fun v => ?val, fun v hlength hv => ?code⟩
  case unr =>
    simp only [metric_eq_unr, pathTo_iff]
    exact ⟨fun h bits hlength hends => h _ bits ⟨hlength, hends, rfl⟩,
      fun h _ bits ⟨hlength, hends, _⟩ => h bits hlength hends⟩
  case val =>
    simp only [metric_eq_val, pathTo_iff]
    exact and_congr_right fun _ => ⟨fun h bits hlength hends => h _ bits ⟨hlength, hends, rfl⟩,
      fun h _ bits ⟨hlength, hends, hscore⟩ => hscore ▸ h bits hlength hends⟩
  case code =>
    obtain rfl | ⟨ys, y, rfl⟩ := ys.eq_nil_or_concat'
    · simp at hlength
    rw [codeAt_append_singleton]
    obtain ⟨bits, hbest, hcode⟩ := exists_pathTo_by_code hv
    refine ⟨⟨bits, hbest.length, hbest.ends, hbest.score, hcode⟩, fun hsecond bits hlength hends hscore => ?_⟩
    exact PathTo.lastEdge_of_code_true ⟨hlength, hends, hscore⟩ hv hsecond

/-- Settles O43: the transmitted path gains +3 at every step, no path can gain more, and only the transmitted edge has
+3. -/
theorem transmittedPathScoresThreePerStep : Obligations.TransmittedPathScoresThreePerStep := by
  intro msg n hn
  have hlength : (msg.take n).length = n := List.length_take_of_le hn
  rw [rowAfter_sentTriples]
  have htop : (metricsAfter initRow (sentFrom 0 (msg.take n))).get (pathEnd 0 (msg.take n)) = .val (3 * n) := by
    rw [metric_sentFrom, hlength]
  have hmax : ∀ q v, (metricsAfter initRow (sentFrom 0 (msg.take n))).get q = .val v → v ≤ 3 * n := fun q v hv => by
    simpa [hlength] using metric_le_three_mul hv
  refine ⟨htop, hmax, fun b y hb hy => ?_⟩
  rw [sentTriples_eq, sentFrom_getElem?, hb] at hy
  obtain rfl := Option.some.inj hy
  rw [List.take_add_one, hb]
  simp only [Option.toList_some, pathEnd_append_singleton]
  exact mge_otherCandidate htop hmax b

/-- Settles O36: the command checks no phase, and of the tables it writes row 0 of D alone. -/
theorem fmrInitStartsARun : Obligations.FmrInitStartsARun := by
  refine ⟨by decide, fun s hflt => ?_⟩
  have hd : ∀ n q, (s.writeDRow 0 initRow).dCell n q = if n = 0 then initRow.get q else s.dCell n q :=
    fun n q => s.dCell_writeDRow 0 n initRow q
  exact ⟨_, exec_fmrInit hflt, hd 0 0, hd 0 1, hd 0 2, hd 0 3, rfl, rfl, rfl, rfl, rfl, ⟨rfl, rfl, rfl⟩, ⟨rfl, rfl⟩,
    ⟨rfl, rfl, rfl⟩, fun n q hn => (hd n q).trans (if_neg hn), fun _ _ => rfl, fun _ => rfl⟩

/-- Settles O37: a metric of +3 is no difference, and REF takes each triple exactly once. -/
theorem branchMetricCountsDifferences : Obligations.BranchMetricCountsDifferences := by
  refine fun y => ⟨branchMetric_eq y, ?_⟩
  obtain ⟨e, rfl⟩ := refOut_surjective y
  exact ⟨e, branchMetric_eq_three.mpr rfl, fun e' he' => (refOut_injective.mp (branchMetric_eq_three.mp he')).symm⟩

/-- Settles O38, case by case as the two operations are defined. -/
theorem metricArithmeticTreatsUnreachable : Obligations.MetricArithmeticTreatsUnreachable :=
  ⟨madd_unr, madd_val, mge_unr, mge_unr_val, fun _ _ => mge_val_val_iff⟩

/-- Settles O40: the cell (T, s) decides which of the two answers is given. -/
theorem fmrRdmAnswersTheNewestMetric : Obligations.FmrRdmAnswersTheNewestMetric := by
  refine ⟨encode_fmrRdm, fun s q hflt => ⟨fun hdp => ?sequence, fun hdp => ?completes⟩⟩
  case completes => exact ⟨exec_fmrRdm_unr hflt hdp, fun _ => exec_fmrRdm_val hflt hdp⟩
  case sequence => exact execFmrRdm_next.mpr <| .inr <| .inl ⟨hflt, hdp, (faulted_eq s .sequence).symm⟩

end Sys2Proof.Proofs

namespace Sys2Proof.Machine

/-! ## The TBU commands, when their checks pass -/

section
open Sys2Proof.Safety
variable {s : State}

/-- The word of `OUT.RD` (30_encoding.md R76). -/
theorem encode_outRd (i : BitVec 12) : encode (.outRd i) = BitVec.ofNat 16 (0xE000 + i.toNat) := by
  have hop : (encode (.outRd i)).toNat = 0xE * 2 ^ 12 + i.toNat := toNat_append_eq (0xE : BitVec 4) i
  bv_omega

theorem exec_tbStart (hflt : s.flt = false) (hdp : s.dp = .fwd) (ht : s.t ≠ 0) : exec .tbStart s =
    .next { s with cur := 0, k := s.t, dp := .tb, rspOut := s.rspOut ++ [word s.t.toNat] } := by
  refine execTbStart_next.mpr <| .inr <| .inr <| .inr ⟨hflt, hdp, ht, ?_⟩
  rw [answered_eq, countData_toNat]
  rfl

/-- The bit of the winning edge is CUR[1] (10_state.md R34). -/
theorem State.lbl_walkEdge (s : State) : lbl s.walkEdge = s.cur.getLsbD 1 := lbl_edgeNo _ _

/-- The winning edge comes from state 2*CUR[0] + P[K,CUR] (10_state.md R35). -/
theorem State.org_walkEdge (s : State) :
    org s.walkEdge = BitVec.ofNat 2 (2 * (s.cur.getLsbD 0).toNat + (s.pCell s.k.toNat s.cur).toNat) := by
  have horg : ∀ (d : StateNo) (p : Bit), org (edgeNo d p) = BitVec.ofNat 2 (2 * (d.getLsbD 0).toNat + p.toNat) := by
    decide
  exact horg _ _

theorem exec_tbStep (hflt : s.flt = false) (hdp : s.dp = .tb) : exec .tbStep s =
    .next { s.walked with rspOut := s.rspOut ++ [word ((lbl s.walkEdge).toNat + 2 * s.nextK.toNat)] } := by
  refine execTbStep_next.mpr <| .inr <| .inr ⟨hflt, hdp, ?_⟩
  rw [answered_eq, walkData_toNat]
  rfl

theorem State.walked_outCell (s : State) (i : Nat) : s.walked.outCell i =
    if i + 1 = s.k.toNat ∧ s.k.toNat ≤ s.cfg.nmax then lbl s.walkEdge else s.outCell i :=
  s.outCell_writeOut s.k.toNat i (lbl s.walkEdge)

theorem exec_outRd (hflt : s.flt = false) (hdp : s.dp = .done) {i : BitVec 12} (hi : i.toNat < s.t.toNat) :
    exec (.outRd i) s = .next { s with rspOut := s.rspOut ++ [word (s.outCell i.toNat).toNat] } := by
  refine execOutRd_next.mpr <| .inr <| .inr <| .inr ⟨hflt, hdp, hi, ?_⟩
  rw [answered_eq, bitData_toNat]

end

/-! ## The walk (43_traceback.md R129, R131, R133) -/

section
open Sys2Proof.Safety
variable (codes : Nat → StateNo → Bit) (k : Nat) (q : StateNo)

@[simp] theorem walkBack_length : (walkBack codes k q).length = k := by
  induction k generalizing q with
  | zero => rfl
  | succ k ih => simp [walkBack, ih]

/-- State 0 is reachable in every row (42_forward_recursion.md R113). -/
theorem rowAfter_get_zero_ne_unr {ys : List (Triple Sym)} {n : Nat} (hn : n ≤ ys.length) :
    (rowAfter ys n).get 0 ≠ .unr := (rowAfter_ne_unr 0 hn).mpr (by simp only [true_or, and_true]; omega)

/-- The walk ends on reachable cells alone, and in row 0 that is state 0 (43_traceback.md R131). -/
theorem walkEnd_of_reachable (ys : List (Triple Sym)) {n : Nat} (hn : n ≤ ys.length) {q : StateNo}
    (hq : (rowAfter ys n).get q ≠ .unr) : walkEnd (codeAt (forwardRows initRow ys)) n q = 0 := by
  induction n generalizing q with
  | zero => exact initRow_get_ne_unr.mp hq
  | succ n ih =>
    have hy := List.getElem?_eq_getElem hn
    rw [rowAfter_succ_get q hy, selectEdge_fst, ← codeAt_forwardRows q hy] at hq
    exact ih (Nat.le_of_succ_le hn) (madd_ne_unr.mp hq)

/-- The bit of a step of the walk is m1 of the state it leaves. -/
theorem walkBack_succ : walkBack codes (k + 1) q =
    walkBack codes k (org (edgeNo q (codes (k + 1) q))) ++ [stateM1 q] := by
  rw [walkBack, lbl_edgeNo]

theorem walkBack_getElem?_last : (walkBack codes (k + 1) q)[k]? = some (stateM1 q) := by simp [walkBack_succ]

/-- The second step of the walk gives m0 of the state the walk starts in, which the first step moves to m1
(10_state.md R35). -/
theorem walkBack_getElem?_beforeLast : (walkBack codes (k + 2) q)[k]? = some (stateM0 q) := by
  have hm1 : ∀ (d : StateNo) (p : Bit), stateM1 (org (edgeNo d p)) = stateM0 d := by decide
  simp [walkBack_succ, hm1]

end

/-! ## The parts of DECODE (45_block_operations.md R145) -/

section
open Sys2Proof.Safety

/-- The commands `is` lead from `s` to `t`, give the responses `rs`, and leave the encoder, the latch and what no
command but `CORE.RST` touches as they are. -/
structure DecoderRun (is : List Instr) (s t : State) (rs : List Word32) : Prop where
  runs : RunsTo is s t
  rspOut : t.rspOut = s.rspOut ++ rs
  encoder : SameEncoder s t
  latch : SameLatch s t
  rest : SameRest s t

variable {is js : List Instr} {s t u : State} {rs rs' : List Word32} {ys : List (Triple Sym)} {n : Nat}

theorem decoderRun_nil (s : State) : DecoderRun [] s s [] :=
  ⟨.nil s, (List.append_nil _).symm, ⟨rfl, rfl, rfl⟩, ⟨rfl, rfl⟩, ⟨rfl, rfl, rfl⟩⟩

theorem DecoderRun.append (h : DecoderRun is s t rs) (h' : DecoderRun js t u rs') :
    DecoderRun (is ++ js) s u (rs ++ rs') where
  runs := h.runs.append h'.runs
  rspOut := by rw [h'.rspOut, h.rspOut, List.append_assoc]
  encoder := by
    obtain ⟨hm, hep, hene⟩ := h.encoder
    obtain ⟨hm', hep', hene'⟩ := h'.encoder
    exact ⟨hm'.trans hm, hep'.trans hep, hene'.trans hene⟩
  latch := by
    obtain ⟨hflt, hcause⟩ := h.latch
    obtain ⟨hflt', hcause'⟩ := h'.latch
    exact ⟨hflt'.trans hflt, hcause'.trans hcause⟩
  rest := by
    obtain ⟨hcmd, hcfg, hresets⟩ := h.rest
    obtain ⟨hcmd', hcfg', hresets'⟩ := h'.rest
    exact ⟨hcmd'.trans hcmd, hcfg'.trans hcfg, hresets'.trans hresets⟩

theorem DecoderRun.flt (h : DecoderRun is s t rs) (hflt : s.flt = false) : t.flt = false :=
  let ⟨hflt', _⟩ := h.latch
  hflt'.trans hflt

theorem DecoderRun.cmdIn (h : DecoderRun is s t rs) : t.cmdIn = s.cmdIn :=
  let ⟨hcmd, _, _⟩ := h.rest
  hcmd

theorem DecoderRun.cfg (h : DecoderRun is s t rs) : t.cfg = s.cfg :=
  let ⟨_, hcfg, _⟩ := h.rest
  hcfg

/-- One command as a run; that it leaves the rest as it is can be read off its next state. -/
theorem DecoderRun.single {i : Instr} {r : Word32} (h : exec i s = .next t)
    (hr : t.rspOut = s.rspOut ++ [r] := by rfl) (hencoder : SameEncoder s t := by exact ⟨rfl, rfl, rfl⟩)
    (hlatch : SameLatch s t := by exact ⟨rfl, rfl⟩) (hrest : SameRest s t := by exact ⟨rfl, rfl, rfl⟩) :
    DecoderRun [i] s t [r] := ⟨.single h, hr, hencoder, hlatch, hrest⟩

/-- `s` has taken the first `n` triples of `ys` in its forward pass: it holds row `n` of D and the rows of P up to
`n` (42_forward_recursion.md R112). -/
structure ForwardAt (ys : List (Triple Sym)) (n : Nat) (s : State) : Prop where
  phase : s.dp = .fwd
  steps : s.t.toNat = n
  row : s.dRow n = rowAfter ys n
  codes : ∀ m q, m < n → s.pCell (m + 1) q = codeAt (forwardRows initRow ys) (m + 1) q

theorem decoderRun_fmrInit (hflt : s.flt = false) (ys : List (Triple Sym)) :
    ∃ t, DecoderRun [.fmrInit] s t [word 0] ∧ ForwardAt ys 0 t := by
  have hrow : ∀ q, (s.writeDRow 0 initRow).dCell 0 q = initRow.get q := fun q => s.dCell_writeDRow 0 0 initRow q
  exact ⟨_, .single (exec_fmrInit hflt), rfl, rfl, State.dRow_eq hrow, fun m q hm => absurd hm (Nat.not_lt_zero m)⟩

/-- A forward step takes the next triple. -/
theorem ForwardAt.fmrStep (h : ForwardAt ys n s) (hflt : s.flt = false) (hn : n < s.cfg.nmax) {y : Triple Sym}
    (hy : ys[n]? = some y) : ∃ t, DecoderRun [.fmrStep y] s t [word (n + 1)] ∧ ForwardAt ys (n + 1) t := by
  obtain ⟨hdp, rfl, hrow, hcodes⟩ := h
  have hselect : ∀ q, selectEdge (s.dRow s.t.toNat) y q = selectEdge (rowAfter ys s.t.toNat) y q := by simp [hrow]
  refine ⟨_, .single (exec_fmrStep hflt hdp hn y), hdp, toNat_count_succ hn, State.dRow_eq fun q => ?row,
    fun m q hm => (s.forward_pCell y (m + 1) q).trans ?codes⟩
  case row =>
    refine (s.forward_dCell y _ q).trans ?_
    rw [if_pos rfl, hselect, rowAfter_succ_get q hy]
  case codes =>
    split
    · rename_i hlast
      obtain rfl : m = s.t.toNat := Nat.succ_inj.mp hlast
      rw [hselect, codeAt_forwardRows q hy]
    · rename_i hold
      exact hcodes m q (by omega)

/-- The forward pass answers the step counts. -/
theorem decoderRun_fmrSteps (hflt : s.flt = false) (h : ForwardAt ys 0 s) (hn : n ≤ ys.length) (hmax : n ≤ s.cfg.nmax) :
    ∃ t, DecoderRun ((ys.take n).map .fmrStep) s t ((List.range n).map fun j => word (j + 1)) ∧ ForwardAt ys n t := by
  induction n with
  | zero => exact ⟨s, decoderRun_nil s, h⟩
  | succ n ih =>
    obtain ⟨t, hrun, hat⟩ := ih (Nat.le_of_succ_le hn) (Nat.le_of_succ_le hmax)
    obtain ⟨y, hy⟩ : ∃ y, ys[n]? = some y := ⟨_, List.getElem?_eq_getElem hn⟩
    obtain ⟨u, hstep, hnext⟩ := hat.fmrStep (hrun.flt hflt) (hrun.cfg ▸ hmax) hy
    refine ⟨u, ?_, hnext⟩
    simpa [List.take_add_one, hy, List.range_succ] using hrun.append hstep

/-- `s` has `k` steps of the walk along `codes` before it, all with a cell in OUT (43_traceback.md R127, R128). -/
structure WalkAt (codes : Nat → StateNo → Bit) (k : Nat) (s : State) : Prop where
  phase : s.dp = if s.k = 0 then .done else .tb
  left : s.k.toNat = k
  fits : k ≤ s.cfg.nmax
  codes : ∀ m q, m < k → s.pCell (m + 1) q = codes (m + 1) q

/-- `TB.START` after the forward pass puts the whole walk, from state 0, before the state. -/
theorem ForwardAt.tbStart (h : ForwardAt ys n s) (hflt : s.flt = false) (h1 : 1 ≤ n) (hmax : n ≤ s.cfg.nmax) :
    ∃ t, DecoderRun [.tbStart] s t [word n] ∧ WalkAt (codeAt (forwardRows initRow ys)) n t ∧ t.cur = 0 ∧
      t.t.toNat = n := by
  obtain ⟨hdp, rfl, -, hcodes⟩ := h
  have ht : s.t ≠ 0 := by bv_omega
  exact ⟨_, .single (exec_tbStart hflt hdp ht), ⟨(if_neg ht).symm, rfl, hmax, hcodes⟩, rfl, rfl⟩

section
variable {codes : Nat → StateNo → Bit} {k : Nat}

/-- A step of the walk writes the bit of its edge to OUT and moves to the origin of that edge. -/
theorem WalkAt.tbStep (h : WalkAt codes (k + 1) s) (hflt : s.flt = false) :
    ∃ t, DecoderRun [.tbStep] s t [word ((lbl (edgeNo s.cur (codes (k + 1) s.cur))).toNat + 2 * k)] ∧
      WalkAt codes k t ∧ t.t = s.t ∧ t.cur = org (edgeNo s.cur (codes (k + 1) s.cur)) ∧
      ∀ i, t.outCell i = if i = k then lbl (edgeNo s.cur (codes (k + 1) s.cur)) else s.outCell i := by
  obtain ⟨hdp, hk, hmax, hcodes⟩ := h
  have hdp : s.dp = .tb := hdp.trans (if_neg (by bv_omega))
  have hedge : s.walkEdge = edgeNo s.cur (codes (k + 1) s.cur) := by
    rw [State.walkEdge, hk, hcodes k _ (Nat.lt_succ_self k)]
  have hnext : s.nextK.toNat = k := by rw [State.nextK_toNat (by omega), hk, Nat.add_sub_cancel]
  rw [← hedge]
  refine ⟨_, .single (exec_tbStep hflt hdp) (by rw [hnext]),
    ⟨rfl, hnext, Nat.le_of_succ_le hmax, fun m q hm => ?codes⟩, rfl, rfl, fun i => (s.walked_outCell i).trans ?out⟩
  case codes => exact hcodes m q (Nat.lt_succ_of_lt hm)
  case out => simp [hk, hmax]

/-- The walk answers its bits, last first, each with the new K, and leaves them in OUT in message order. -/
theorem decoderRun_tbSteps (hflt : s.flt = false) (h : WalkAt codes k s) :
    ∃ t, DecoderRun (List.replicate k .tbStep) s t
        ((walkBack codes k s.cur).zipIdx.reverse.map fun x => word (x.1.toNat + 2 * x.2)) ∧
      t.dp = .done ∧ t.t = s.t ∧ (List.range k).map t.outCell = walkBack codes k s.cur ∧
      ∀ i, k ≤ i → t.outCell i = s.outCell i := by
  induction k generalizing s with
  | zero =>
    have hk : s.k = 0 := BitVec.eq_of_toNat_eq h.left
    exact ⟨s, decoderRun_nil s, h.phase.trans (if_pos hk), rfl, rfl, fun _ _ => rfl⟩
  | succ k ih =>
    obtain ⟨u, hstep, hwalk, ht, hcur, hout⟩ := h.tbStep hflt
    obtain ⟨v, hrun, hdp, ht', hbits, hkept⟩ := ih (hstep.flt hflt) hwalk
    rw [hcur] at hrun hbits
    refine ⟨v, ?run, hdp, ht'.trans ht, ?bits, fun i hi => ?kept⟩
    case run => simpa [walkBack, List.zipIdx_append, List.replicate_succ] using hstep.append hrun
    case bits =>
      rw [List.range_succ, List.map_append, hbits, List.map_singleton, hkept k (le_refl k), hout, if_pos rfl, walkBack]
    case kept => rw [hkept i (Nat.le_of_succ_le hi), hout, if_neg (by omega)]

end

/-- Each `OUT.RD` answers its bit and leaves the phase and T, so the next one completes too. -/
theorem runsTo_outRds (hflt : s.flt = false) (hdp : s.dp = .done) {l : List Nat}
    (hl : ∀ i ∈ l, i < s.t.toNat ∧ i < 4096) : RunsTo (l.map fun i => .outRd (BitVec.ofNat 12 i)) s
      { s with rspOut := s.rspOut ++ l.map fun i => word (s.outCell i).toNat } := by
  induction l generalizing s with
  | nil => simpa using RunsTo.nil s
  | cons i l ih =>
    obtain ⟨⟨hit, hi⟩, hl⟩ := List.forall_mem_cons.mp hl
    have hindex : (BitVec.ofNat 12 i).toNat = i := Nat.mod_eq_of_lt hi
    have hread := exec_outRd hflt hdp (i := BitVec.ofNat 12 i) (by rwa [hindex])
    rw [hindex] at hread
    have hrest := ih (s := { s with rspOut := s.rspOut ++ [word (s.outCell i).toNat] }) hflt hdp hl
    simp only [List.append_assoc] at hrest
    exact .cons hread hrest

/-- DECODE from any decoder phase (45_block_operations.md R145). -/
theorem decoderRun_expandDecode (hflt : s.flt = false) (h1 : 1 ≤ ys.length) (hmax : ys.length ≤ s.cfg.nmax) :
    ∃ t, DecoderRun (expandDecode ys) s t
        ([word 0] ++ (List.range ys.length).map (fun j => word (j + 1)) ++ [word ys.length]
          ++ (decodeTriples ys).zipIdx.reverse.map (fun x => word (x.1.toNat + 2 * x.2))
          ++ (decodeTriples ys).map fun b => word b.toNat) ∧
      t.dp = .done ∧ t.t.toNat = ys.length := by
  obtain ⟨s₁, hinit, hat⟩ := decoderRun_fmrInit hflt ys
  obtain ⟨s₂, hsteps, hat⟩ := decoderRun_fmrSteps (hinit.flt hflt) hat (le_refl _) (hinit.cfg ▸ hmax)
  rw [List.take_length] at hsteps
  have hpass := hinit.append hsteps
  obtain ⟨s₃, hstart, hwalk, hcur, ht⟩ := hat.tbStart (hpass.flt hflt) h1 (hpass.cfg ▸ hmax)
  have hstarted := hpass.append hstart
  obtain ⟨s₄, hback, hdp, ht', hbits, -⟩ := decoderRun_tbSteps (hstarted.flt hflt) hwalk
  rw [hcur, ← decodeTriples] at hback hbits
  have hwalked := hstarted.append hback
  have ht : s₄.t.toNat = ys.length := by rw [ht', ht]
  have hreads : DecoderRun ((List.range ys.length).map fun i => .outRd (BitVec.ofNat 12 i)) s₄
      { s₄ with rspOut := s₄.rspOut ++ (List.range ys.length).map fun i => word (s₄.outCell i).toNat }
      ((decodeTriples ys).map fun b => word b.toNat) := by
    refine ⟨runsTo_outRds (hwalked.flt hflt) hdp fun i hi => ?_, ?_, ⟨rfl, rfl, rfl⟩, ⟨rfl, rfl⟩, ⟨rfl, rfl, rfl⟩⟩
    · have := Config.nmax_le s.cfg
      have := List.mem_range.mp hi
      omega
    · rw [← hbits, List.map_map]
      rfl
  exact ⟨_, hwalked.append hreads, hdp, ht⟩

end

/-! ## Decoding what an error-free channel delivers (45_block_operations.md R148) -/

section
open Sys2Proof.Safety

@[simp] theorem triplesOf_flattenTriples {α : Type} (ts : List (Triple α)) :
    triplesOf (flattenTriples ts) = some ts := by
  induction ts with
  | nil => rfl
  | cons x ts ih =>
    have hcons : flattenTriples (x :: ts) = x.x0 :: x.x1 :: x.x2 :: flattenTriples ts := rfl
    rw [hcons, triplesOf, ih]

/-- decode of a whole number of triples (45_block_operations.md R146). -/
theorem decodeBlock_flattenTriples {nmax : Nat} {ys : List (Triple Sym)} (h1 : 1 ≤ ys.length)
    (hmax : ys.length ≤ nmax) : decodeBlock nmax (flattenTriples ys) = some (decodeTriples ys) := by
  rw [decodeBlock, triplesOf_flattenTriples]
  exact if_pos ⟨h1, hmax⟩

/-- An edge wins when the other edge's candidate is smaller. -/
theorem selectEdge_snd_of_not_mge {row : Row Metric} {y : Triple Sym} {d : StateNo} {p : Bit}
    (h : mge (candidate row y d (!p)) (candidate row y d p) = false) : (selectEdge row y d).2 = p := by
  cases p with
  | false => rw [selectEdge_of_mge (mge_of_not_mge h)]
  | true => rw [selectEdge_of_not_mge h]

variable {msg : List Bit} {n : Nat} {s t : State}

/-- The stored code of each state of the transmitted path points back along that path (42_forward_recursion.md R117). -/
theorem codeAt_sentTriples {b : Bit} (hb : msg[n]? = some b) :
    codeAt (forwardRows initRow (sentTriples msg)) (n + 1) (trellisNext (pathEnd 0 (msg.take n)) b) =
      stateM0 (pathEnd 0 (msg.take n)) := by
  obtain ⟨hn, -⟩ := List.getElem?_eq_some_iff.mp hb
  have hy : (sentTriples msg)[n]? = some (refOut (edgeFrom (pathEnd 0 (msg.take n)) b)) := by
    rw [sentTriples_eq, sentFrom_getElem?, hb, Option.map_some]
  obtain ⟨-, -, hwins⟩ := Proofs.transmittedPathScoresThreePerStep msg n hn.le
  have hwins := hwins b _ hb hy
  simp only [List.take_add_one, hb, Option.toList_some, pathEnd_append_singleton] at hwins
  rw [codeAt_forwardRows _ hy]
  exact selectEdge_snd_of_not_mge hwins

theorem edgeFrom_eq (q : StateNo) (b : Bit) : edgeFrom q b = edgeNo (trellisNext q b) (stateM0 q) := rfl

@[simp] theorem lbl_edgeFrom (q : StateNo) (b : Bit) : lbl (edgeFrom q b) = b := by revert q b; decide

/-- From a state of the transmitted path the walk goes back along that path. -/
theorem walkBack_sentTriples (hn : n ≤ msg.length) :
    walkBack (codeAt (forwardRows initRow (sentTriples msg))) n (pathEnd 0 (msg.take n)) = msg.take n := by
  induction n with
  | zero => simp [walkBack]
  | succ n ih =>
    obtain ⟨b, hb⟩ : ∃ b, msg[n]? = some b := ⟨_, List.getElem?_eq_getElem hn⟩
    rw [List.take_add_one, hb, Option.toList_some, pathEnd_append_singleton, walkBack, codeAt_sentTriples hb,
      ← edgeFrom_eq, org_edgeFrom, lbl_edgeFrom, ih (Nat.le_of_succ_le hn)]

/-- A message that takes the encoder back to state 0, where the walk starts, is decoded exactly. -/
theorem decodeTriples_sentTriples (hend : pathEnd 0 msg = 0) : decodeTriples (sentTriples msg) = msg := by
  have hwalk := walkBack_sentTriples (le_refl msg.length)
  rw [List.take_length, hend] at hwalk
  rw [decodeTriples, sentTriples_eq, sentFrom_length]
  exact hwalk

/-- The encoder's memory is the last two bits (40_encoder.md R99). -/
theorem pathEnd_of_terminated (h : terminated (false :: false :: msg)) : pathEnd 0 msg = 0 := by
  obtain ⟨hm1, hm0⟩ := memoryAfter_bits 0 msg
  have hzero : ∀ q : StateNo, stateM1 q = false → stateM0 q = false → q = 0 := by decide
  exact hzero _ (hm1.trans h.1) (hm0.trans h.2)

/-- Every command of a sequence gives one response (30_encoding.md R70). -/
theorem RunsTo.rspOut_length {is : List Instr} (h : RunsTo is s t) :
    t.rspOut.length = s.rspOut.length + is.length := by
  induction h with
  | nil => rfl
  | @cons i is s t u hexec hrest ih =>
    obtain ⟨v, r, hv, -, hrsp⟩ := (answersOnce_exec i s).next
    obtain rfl := Host.Outcome.next.inj (hexec.symm.trans hv)
    rw [ih, hrsp, List.length_append, List.length_singleton, List.length_cons]
    omega

/-- ENCODE and then CHANNEL on its result leave EP = 0 and FLT = 0 (45_block_operations.md R147). -/
theorem exists_runsTo_encode_channel (hflt : s.flt = false) (hep : s.ep = 0) (b : Bit) (bs : List Bit) :
    ∃ t l, RunsTo (expandEncode (false :: false :: b :: bs)
        ++ expandChannel (encodeTriples (false :: false :: b :: bs))) s t ∧
      t.rspOut = s.rspOut ++ l ∧ t.flt = false ∧ t.ep = 0 ∧ t.cmdIn = s.cmdIn ∧ t.cfg = s.cfg := by
  have hencode := runsTo_expandEncode hflt hep b bs
  simp only [List.append_assoc] at hencode
  refine ⟨_, _, hencode.append (runsTo_expandChannel ?_ _), List.append_assoc _ _ _, ?_, rfl, rfl, rfl⟩ <;> exact hflt

end

end Sys2Proof.Machine

/-! ## The obligations of 43_traceback.md, and the sequences DECODE and ROUNDTRIP -/

namespace Sys2Proof.Proofs

open Sys2Proof.Machine Sys2Proof.Safety

/-- Settles O51: the walk starts in state 0, which is reachable in every row. -/
theorem walkEndsInStateZero : Obligations.WalkEndsInStateZero := fun ys =>
  walkEnd_of_reachable ys (le_refl _) (rowAfter_get_zero_ne_unr (le_refl _))

/-- Settles O52: the walk starts in state 0, and its first two steps give the two bits of that state. -/
theorem lastTwoDecodedBitsAreZero : Obligations.LastTwoDecodedBitsAreZero := by
  intro ys h1
  refine ⟨walkBack_length _ _ _, ?last, fun h2 => ?beforeLast⟩
  case last =>
    rw [decodeTriples, ← Nat.sub_add_cancel h1]
    exact walkBack_getElem?_last _ _ 0
  case beforeLast =>
    rw [decodeTriples, ← Nat.sub_add_cancel h2]
    exact walkBack_getElem?_beforeLast _ _ 0

/-- Settles O44: no check of TB.START looks at a metric. -/
theorem tbStartBeginsInStateZero : Obligations.TbStartBeginsInStateZero := by
  refine ⟨by decide, fun s hflt => ⟨fun hdp => ?sequence, fun hdp ht => ?lengthZero, exec_tbStart hflt⟩⟩
  case sequence => exact execTbStart_next.mpr <| .inr <| .inl ⟨hflt, hdp, (faulted_eq s .sequence).symm⟩
  case lengthZero =>
    exact execTbStart_next.mpr <| .inr <| .inr <| .inl ⟨hflt, hdp, ht, (faulted_eq s .lengthZero).symm⟩

/-- Settles O45; what the clauses at K = 0 and K > NMAX say is the model's choice (log 6). -/
theorem tbStepWalksOneEdgeBack : Obligations.TbStepWalksOneEdgeBack := by
  refine ⟨by decide, fun s hflt => ⟨fun hdp => ?sequence, fun hdp => ?completes⟩⟩
  case sequence => exact execTbStep_next.mpr <| .inr <| .inl ⟨hflt, hdp, (faulted_eq s .sequence).symm⟩
  case completes =>
    refine ⟨_, exec_tbStep hflt hdp, State.nextK_toNat, fun h1 hk => ?written, s.org_walkEdge, rfl,
      by rw [← s.lbl_walkEdge]; rfl, rfl, ⟨rfl, rfl, rfl⟩, ⟨rfl, rfl⟩, ⟨rfl, rfl, rfl⟩, fun _ _ => rfl, fun _ _ => rfl,
      fun i hi => ?kept⟩
    case written =>
      rw [← s.lbl_walkEdge]
      exact (s.walked_outCell _).trans (if_pos ⟨Nat.sub_add_cancel h1, hk⟩)
    case kept => exact (s.walked_outCell i).trans (if_neg (by omega))

/-- Settles O46: the phase is checked before the index. -/
theorem outRdAnswersTheDecodedBit : Obligations.OutRdAnswersTheDecodedBit := by
  refine ⟨encode_outRd, fun s i hflt => ⟨fun hdp => ?sequence, fun hdp hi => ?indexRange,
    fun hdp => exec_outRd hflt hdp⟩⟩
  case sequence => exact execOutRd_next.mpr <| .inr <| .inl ⟨hflt, hdp, (faulted_eq s .sequence).symm⟩
  case indexRange =>
    exact execOutRd_next.mpr <| .inr <| .inr <| .inl ⟨hflt, hdp, hi, (faulted_eq s .indexRange).symm⟩

/-- Settles O55: FMR.INIT, the forward pass, TB.START, the walk and the reads of OUT run one after another. -/
theorem decodeSequenceAnswersTheDecodedBits : Obligations.DecodeSequenceAnswersTheDecodedBits := by
  intro s ys rest hflt h1 hmax hport
  obtain ⟨t, hrun, hdp, ht⟩ := decoderRun_expandDecode (s := { s with cmdIn := rest }) hflt h1 hmax
  obtain ⟨hcmd, hcfg, hresets⟩ := hrun.rest
  refine ⟨t, hrun.runs.run hport, decodeBlock_flattenTriples h1 hmax, ?_, hdp, ht, hcmd, hrun.encoder, hrun.latch,
    hcfg, hresets⟩
  simpa only [List.append_assoc] using hrun.rspOut

/-- Settles O57: DECODE is given what the error-free channel delivers of a message that ends in state 0. -/
theorem roundTripSequenceAnswersTheMessage : Obligations.RoundTripSequenceAnswersTheMessage := by
  intro s B rest hflt hep hdom hmax hterm hport
  obtain ⟨b, bs, rfl⟩ := encodeDomain_eq_true.mp hdom
  have hlength : (sentTriples (b :: bs)).length = bs.length + 1 := sentFrom_length 0 (b :: bs)
  have hbits : decodeTriples (sentTriples (b :: bs)) = b :: bs :=
    decodeTriples_sentTriples (pathEnd_of_terminated hterm)
  have h1 : 1 ≤ (sentTriples (b :: bs)).length := by omega
  obtain ⟨u, l, hsend, hsent, hflt', hep', hcmd', hcfg'⟩ :=
    exists_runsTo_encode_channel (s := { s with cmdIn := rest }) hflt hep b bs
  have hfits : (sentTriples (b :: bs)).length ≤ u.cfg.nmax := by
    rw [hlength, hcfg']
    simpa using hmax
  obtain ⟨t, hdecode, hdp, -⟩ := decoderRun_expandDecode hflt' h1 hfits
  have hrun : RunsTo (expandRoundTrip (false :: false :: b :: bs)) { s with cmdIn := rest } t :=
    hsend.append hdecode.runs
  have hrsp := hdecode.rspOut
  rw [hbits, ← List.append_assoc, hsent, List.append_assoc _ l] at hrsp
  have hcount := hrun.rspOut_length
  obtain ⟨-, hep'', -⟩ := hdecode.encoder
  refine ⟨t, _, hrun.run hport, hrsp, ?_, hdecode.flt hflt', hdp, hep''.trans hep', hdecode.cmdIn.trans hcmd'⟩
  simp only [hrsp, List.length_append, List.length_map, List.length_cons] at hcount ⊢
  omega

end Sys2Proof.Proofs

/-! ## `CORE.RST` (44_core_control.md R135) -/

namespace Sys2Proof.Machine

section

variable {tb : Tables}

theorem State.resetRegs_of_ok (s : State) (h : tb.ok = true) : s.resetRegs tb = { s with
    m := 0, ep := 0, ene := false, t := 0, dp := .idle, cur := 0, k := 0, flt := false, cause := 0,
    mem := ⟨[], [], []⟩, resets := s.resets + 1 } := by
  simp only [State.resetRegs, h, Memory.unspecified, Bool.not_true, if_true]

/-- 60_exceptions.md R163: the latch holds TableInconsistent, code 3. -/
theorem State.resetRegs_of_not_ok (s : State) (h : tb.ok = false) : s.resetRegs tb = { s with
    m := 0, ep := 0, ene := false, t := 0, dp := .idle, cur := 0, k := 0, flt := true, cause := 3,
    mem := ⟨[], [], []⟩, resets := s.resets + 1 } := by
  simp only [State.resetRegs, h, Memory.unspecified, Cause.code, Bool.not_false, Bool.false_eq_true, if_false]

end

end Sys2Proof.Machine

/-! ## The obligation of 44_core_control.md about reset -/

namespace Sys2Proof.Proofs

open Sys2Proof.Machine

/-- Settles O25: no check stands before the reset, and TablesOK alone decides the latch and the answer. -/
theorem coreRstResetsEverything : Obligations.CoreRstResetsEverything := by
  refine ⟨by decide, fun s => ?completes, fun s tb htb => ?tableInconsistent⟩
  case completes =>
    refine execCoreRst_next.mpr ?_
    rw [State.resetRegs_of_ok s trellisTables_ok, answered_eq]
    rfl
  case tableInconsistent =>
    refine resetCore_next.mpr <| .inr ⟨htb, ?_⟩
    rw [State.resetRegs_of_not_ok s htb, packResponse_eq]
    rfl

end Sys2Proof.Proofs

/-! ## Whole blocks of bits (45_block_operations.md) -/

namespace Sys2Proof.Machine

section
open Sys2Proof.Safety

/-- decode on what an error-free channel delivers of a message that takes the encoder back to state 0
(45_block_operations.md R148). -/
theorem decodeBlock_sentTriples {nmax : Nat} {msg : List Bit} (h1 : 1 ≤ msg.length) (hmax : msg.length ≤ nmax)
    (hend : pathEnd 0 msg = 0) : decodeBlock nmax (flattenTriples (sentTriples msg)) = some msg := by
  have hlength : (sentTriples msg).length = msg.length := sentFrom_length 0 msg
  rw [decodeBlock_flattenTriples (h1.trans_eq hlength.symm) (hlength.trans_le hmax), decodeTriples_sentTriples hend]

theorem flattenTriples_replicate {α : Type} (n : Nat) (a : α) :
    flattenTriples (List.replicate n ⟨a, a, a⟩) = List.replicate (3 * n) a := by
  induction n with
  | zero => rfl
  | succ n ih =>
    have hcons : flattenTriples (List.replicate (n + 1) ⟨a, a, a⟩) =
        a :: a :: a :: flattenTriples (List.replicate n ⟨a, a, a⟩) := rfl
    rw [hcons, ih]
    rfl

/-- Zeros that enter a zero memory give zero triples and leave the memory zero. -/
theorem encodeTriples_zeros_append (n : Nat) (bs : List Bit) :
    encodeTriples (false :: false :: (List.replicate n false ++ bs)) =
      List.replicate n ⟨false, false, false⟩ ++ encodeTriples (false :: false :: bs) := by
  induction n with
  | zero => rfl
  | succ n ih => exact congrArg (⟨false, false, false⟩ :: ·) ih

theorem encodeTriples_zeros (n : Nat) :
    encodeTriples (false :: false :: List.replicate n false) = List.replicate n ⟨false, false, false⟩ := by
  simpa [encodeTriples] using encodeTriples_zeros_append n []

theorem pathEnd_zero_zeros (n : Nat) : pathEnd 0 (List.replicate n false) = 0 := by
  induction n with
  | zero => rfl
  | succ n ih => exact ih

/-- Two zeros bring every state to state 0, and further zeros keep it there. -/
theorem pathEnd_append_zeros (q : StateNo) (bs : List Bit) {n : Nat} (hn : 2 ≤ n) :
    pathEnd q (bs ++ List.replicate n false) = 0 := by
  obtain ⟨k, rfl⟩ := Nat.exists_eq_add_of_le' hn
  have hzeros : pathEnd (trellisNext (trellisNext (pathEnd q bs) false) false) (List.replicate k false) = 0 := by
    rw [trellisNext_zeros, pathEnd_zero_zeros]
  rw [pathEnd, List.foldl_append]
  exact hzeros

/-- The three triples in which a 1 with zeros around it shows (45_block_operations.md R151). -/
theorem encodeTriples_impulse {n : Nat} (hn : 2 ≤ n) :
    encodeTriples (false :: false :: true :: List.replicate n false) =
      [⟨true, true, true⟩, ⟨true, false, false⟩, ⟨true, true, false⟩]
        ++ List.replicate (n - 2) ⟨false, false, false⟩ := by
  obtain ⟨k, rfl⟩ := Nat.exists_eq_add_of_le' hn
  rw [Nat.add_sub_cancel, ← encodeTriples_zeros]
  rfl

end

end Sys2Proof.Machine

/-! ## The obligations of 45_block_operations.md about decoded messages -/

namespace Sys2Proof.Proofs

open Sys2Proof.Machine Sys2Proof.Safety

/-- Settles O56: a terminated B takes the encoder back to state 0, where the walk starts. -/
theorem decodingACodewordGivesTheMessage : Obligations.DecodingACodewordGivesTheMessage := by
  intro nmax B hdom hmax hterm
  obtain ⟨b, bs, rfl⟩ := encodeDomain_eq_true.mp hdom
  refine ⟨_, if_pos hdom, ?_⟩
  rw [channelBlock_flattenTriples]
  exact decodeBlock_sentTriples (Nat.le_add_left 1 bs.length) (by simpa using hmax)
    (pathEnd_of_terminated hterm)

/-- Settles O58: the zero message stays in state 0, so the transmitted path's metrics are those of state 0. -/
theorem allZeroMessageDecodesToZeros : Obligations.AllZeroMessageDecodesToZeros := by
  intro N nmax h1 hmax
  have hsent : flattenTriples (sentTriples (List.replicate N false)) = List.replicate (3 * N) Sym.plus := by
    rw [sentTriples, encodeTriples_zeros, List.map_replicate]
    exact flattenTriples_replicate N Sym.plus
  refine ⟨?codeword, List.map_replicate, fun n hn => ?metric, ?decoded⟩
  case codeword =>
    obtain ⟨k, rfl⟩ := Nat.exists_eq_add_of_le' h1
    have hdom : encodeDomain (List.replicate (k + 1 + 2) false) = true := rfl
    rw [encodeBlock, if_pos hdom, ← flattenTriples_replicate, ← encodeTriples_zeros]
    rfl
  case metric =>
    obtain ⟨hmetric, -, -⟩ := transmittedPathScoresThreePerStep (List.replicate N false) n (by simpa using hn)
    rwa [List.take_replicate, pathEnd_zero_zeros] at hmetric
  case decoded =>
    rw [← hsent]
    exact decodeBlock_sentTriples (by simpa using h1) (by simpa using hmax) (pathEnd_zero_zeros N)

/-- Settles O59: the zeros before the 1 keep the memory at zero, and two zeros after it clear the memory again. -/
theorem isolatedImpulseDecodesExactly : Obligations.IsolatedImpulseDecodesExactly := by
  intro a c nmax ha hc hmax msg
  have hmsg : msg = List.replicate a false ++ true :: List.replicate c false := List.append_assoc _ _ _
  have hlength : msg.length = a + (c + 1) := by simp [hmsg]
  refine ⟨?codeword, decodeBlock_sentTriples (by omega) (by omega) (pathEnd_append_zeros 0 _ hc)⟩
  rw [hmsg, encodeTriples_zeros_append, encodeTriples_impulse hc, List.append_assoc]

end Sys2Proof.Proofs

/-! ## The latch: how it is set and what leaves it alone (60_exceptions.md) -/

namespace Sys2Proof

theorem Mnemonic.exists_row (m : Mnemonic) : ∃ r ∈ opcodeTable, r.mnemonic = m := by
  have hall : m ∈ Mnemonic.all := by cases m <;> decide
  rw [← opcodeTable_mnemonics] at hall
  exact List.mem_map.mp hall

/-- Decoding fails on the words that match no row of the opcode map (30_encoding.md R74, R76). -/
theorem exists_decode_eq_error {w : Word16} (h : Safety.isIllegal w) : ∃ e, decode w = .error e := by
  cases hd : decode w with
  | error e => exact ⟨e, rfl⟩
  | ok i =>
    obtain ⟨r, hr, hm⟩ := i.mnemonic.exists_row
    exact absurd ((Proofs.wordIsCommandExactlyByMaskAndMatch w r hr).mp ⟨i, hd, hm.symm⟩) (h r hr)

end Sys2Proof

namespace Sys2Proof.Machine

section
variable {i : Instr} {s t : State}

/-! ## While FLT = 1 (60_exceptions.md R169, R171) -/

theorem exec_of_faulted (hflt : s.flt = true) (hrst : i ≠ .coreRst) (hstat : i ≠ .coreStat) :
    exec i s = .next s.rejected := by
  cases i with
  | coreRst => exact absurd rfl hrst
  | coreStat => exact absurd rfl hstat
  | encPad | encBit | encEnd | mapTri | fmrInit | fmrStep | fmrRdm | tbStart | tbStep | outRd =>
    exact whenRunning_of_faulted hflt

/-- While FLT = 1 only the words of `CORE.RST` and `CORE.STAT` are not rejected. -/
theorem step_of_faulted {w : Word16} {rest : List Word16} (hport : s.cmdIn = w :: rest) (hflt : s.flt = true)
    (hrst : w ≠ 0x1000) (hstat : w ≠ 0x2000) : step s = .next { s with cmdIn := rest }.rejected := by
  cases hd : decode w with
  | error e => exact (step_of_decode_error hport hd).trans (whenRunning_of_faulted hflt)
  | ok i =>
    obtain rfl := decode_eq_ok.mp hd
    rw [step_of_decode_ok hport hd]
    refine exec_of_faulted hflt ?_ ?_
    · rintro rfl
      exact hrst (by decide)
    · rintro rfl
      exact hstat (by decide)

theorem step_coreRst {rest : List Word16} (hport : s.cmdIn = 0x1000 :: rest) :
    step s = .next (({ s with cmdIn := rest }.resetRegs trellisTables).answered 0) :=
  (step_of_decode_ok hport (i := .coreRst) (by decide)).trans (execCoreRst_next.mpr rfl)

theorem step_coreStat {rest : List Word16} (hport : s.cmdIn = 0x2000 :: rest) :
    step s = .next ({ s with cmdIn := rest }.answered s.status) :=
  step_of_decode_ok hport (i := .coreStat) (by decide)

/-- While FLT = 1 a step resets the core or leaves the latch alone. -/
theorem step_of_faulted_cases (hflt : s.flt = true) (h : step s = .next t) :
    (∃ rest, s.cmdIn = 0x1000 :: rest ∧ t = ({ s with cmdIn := rest }.resetRegs trellisTables).answered 0) ∨
    Safety.SameLatch s t := by
  cases hport : s.cmdIn with
  | nil =>
    cases (step_of_no_word hport).symm.trans h
    exact .inr ⟨rfl, rfl⟩
  | cons w rest =>
    by_cases hrst : w = 0x1000
    · subst hrst
      exact .inl ⟨rest, rfl, (Host.Outcome.next.inj ((step_coreRst hport).symm.trans h)).symm⟩
    by_cases hstat : w = 0x2000
    · subst hstat
      cases (step_coreStat hport).symm.trans h
      exact .inr ⟨rfl, rfl⟩
    · cases (step_of_faulted hport hflt hrst hstat).symm.trans h
      exact .inr ⟨rfl, rfl⟩

/-- FLT and CAUSE in the response of `CORE.STAT` (10_state.md R31). -/
theorem packResponse_status (s : State) :
    (packResponse 0 false s.status).extractLsb' 28 4 = 0 ∧
    (packResponse 0 false s.status).getLsbD 9 = s.flt ∧
    (packResponse 0 false s.status).extractLsb' 10 4 = s.cause := by
  have hword : (packResponse 0 false s.status).toNat = s.status.toNat :=
    (packResponse_toNat 0 false s.status).trans (Nat.zero_add _)
  have hstatus := status_toNat s
  have hdata := s.status.isLt
  have hep := s.ep.isLt
  have hene := toNat_bool_le s.ene
  have hm := s.m.isLt
  have hdp := s.dp.code.isLt
  have hcur := s.cur.isLt
  have hflt := toNat_bool_le s.flt
  have hcause := s.cause.isLt
  refine ⟨BitVec.eq_of_toNat_eq ?_, ?_, BitVec.eq_of_toNat_eq ?_⟩
  · rw [BitVec.extractLsb'_toNat, hword, Nat.shiftRight_eq_div_pow]
    change _ = 0
    omega
  · have hbit : s.status.toNat / 2 ^ 9 % 2 = s.flt.toNat := by omega
    rw [BitVec.getLsbD, Nat.testBit_eq_decide_div_mod_eq, hword, hbit]
    cases s.flt <;> rfl
  · rw [BitVec.extractLsb'_toNat, hword, Nat.shiftRight_eq_div_pow]
    omega

/-! ## While FLT = 0 (60_exceptions.md R168, R170) -/

theorem Cause.one_le_code (c : Cause) : 1 ≤ c.code.toNat := by cases c <;> decide

/-- A command that completes never sets FLT; the reset does not, since the constants pass TablesOK. -/
theorem Completes.flt_eq_false (h : Completes i s t) (hflt : s.flt = false) : t.flt = false := by
  by_cases hrst : i = .coreRst
  · subst hrst
    cases h
    rw [State.resetRegs_flt, trellisTables_ok, Bool.not_true]
  · exact (h.sameLatch hrst).1.trans hflt

/-- Of the three ways a command ends, only the fault sets FLT. -/
theorem exec_faults (hflt : s.flt = false) (h : exec i s = .next t) (hfault : t.flt = true) :
    ∃ c, t = s.faulted c := by
  have hend := exec_endsIn i s
  rw [h] at hend
  cases hend with
  | rejected hrejected => simp [hflt] at hrejected
  | faulted c => exact ⟨c, rfl⟩
  | completed u r hu => simp [hu.flt_eq_false hflt] at hfault

/-- The result `k` of a command from `s` is the fault with the cause `o`, or without one a state with FLT = 0. -/
inductive Reports (s : State) : Option Cause → Result → Prop where
  | fault (c : Cause) : Reports s (some c) (.next (s.faulted c))
  | completes {u : State} (hu : u.flt = false) : Reports s none (.next u)

section
variable {o : Option Cause} {k : Result}

theorem reports_some {c : Cause} : Reports s (some c) k ↔ k = .next (s.faulted c) :=
  ⟨fun h => by cases h; rfl, fun h => h ▸ .fault c⟩

theorem reports_none : Reports s none k ↔ ∃ t, k = .next t ∧ t.flt = false :=
  ⟨fun h => by cases h with | completes hu => exact ⟨_, rfl, hu⟩, fun ⟨_, hk, hu⟩ => hk ▸ .completes hu⟩

theorem reports_whenRunning (hflt : s.flt = false) (h : Reports s o k) : Reports s o (whenRunning s k) := by
  rwa [whenRunning_of_running hflt]

theorem reports_respond {u : State} {d : BitVec 16} (hu : u.flt = false) : Reports s none (respond d u) :=
  .completes hu

theorem reports_respondMetric {v : Metric} {u : State} (hu : u.flt = false) : Reports s none (respondMetric v u) := by
  obtain ⟨r, hr⟩ := respondMetric_emits v
  exact hr u ▸ .completes hu

/-- A check reports its own cause where it fails, and otherwise leaves the report to what follows it. -/
theorem reports_require {legal : Bool} {c : Cause} (h : Reports s o k) :
    Reports s (if legal then o else some c) (require legal c s k) := by
  cases legal with
  | false => exact .fault c
  | true => exact h

end

end

end Sys2Proof.Machine

namespace Sys2Proof.Safety

open Sys2Proof.Machine

/-! ## The order of checks (60_exceptions.md R170) -/

section
variable {s : State}

theorem phaseAllows_encPad (b : Bit) (s : State) : phaseAllows (.encPad b) s = decide (s.ep ≠ 2) := by
  have hphases : ∀ ep : BitVec 2, (!(ep == 2)) = decide (ep ≠ 2) := by decide
  exact hphases s.ep

/-- EP is never 3, so the phases R164 forbids are all but EP = 2. -/
theorem Inv.phaseAllows_encBit (h : Inv s) (b : Bit) : phaseAllows (.encBit b) s = decide (s.ep = 2) := by
  have hphases : ∀ ep : BitVec 2, ep.toNat ≤ 2 → (!(ep == 0 || ep == 1)) = decide (ep = 2) := by decide
  exact hphases s.ep h.epLe

theorem phaseAllows_fmrStep (y : Triple Sym) (s : State) : phaseAllows (.fmrStep y) s = decide (s.dp = .fwd) := by
  cases hdp : s.dp <;> simp [phaseAllows, hdp]

theorem phaseAllows_fmrRdm (q : StateNo) (s : State) : phaseAllows (.fmrRdm q) s = decide (s.dp ≠ .idle) := by
  cases hdp : s.dp <;> simp [phaseAllows, hdp]

theorem phaseAllows_tbStart (s : State) : phaseAllows .tbStart s = decide (s.dp = .fwd) := by
  cases hdp : s.dp <;> simp [phaseAllows, hdp]

theorem phaseAllows_tbStep (s : State) : phaseAllows .tbStep s = decide (s.dp = .tb) := by
  cases hdp : s.dp <;> simp [phaseAllows, hdp]

theorem phaseAllows_outRd (i : BitVec 12) (s : State) : phaseAllows (.outRd i) s = decide (s.dp = .done) := by
  cases hdp : s.dp <;> simp [phaseAllows, hdp]

theorem remainingCause_encPad (b : Bit) (s : State) :
    remainingCause (.encPad b) s = if !b then none else some .padNonZero := by cases b <;> rfl

/-- T never passes NMAX, so it fails to be below NMAX at NMAX only. -/
theorem Inv.remainingCause_fmrStep (h : Inv s) (y : Triple Sym) : remainingCause (.fmrStep y) s =
    if decide (s.t.toNat < s.cfg.nmax) then none else some .capacity := by
  have hfull : s.t.toNat = s.cfg.nmax ↔ ¬s.t.toNat < s.cfg.nmax := by
    have := h.tLe
    omega
  simp only [remainingCause, hfull, ite_not, decide_eq_true_eq]

theorem remainingCause_tbStart (s : State) :
    remainingCause .tbStart s = if decide (s.t ≠ 0) then none else some .lengthZero := by
  have hzero : s.t.toNat = 0 ↔ ¬s.t ≠ 0 := by simp [← BitVec.toNat_inj]
  simp only [remainingCause, hzero, ite_not, decide_eq_true_eq]

theorem remainingCause_outRd (i : BitVec 12) (s : State) :
    remainingCause (.outRd i) s = if decide (i.setWidth 13 < s.t) then none else some .indexRange := by
  have hrange : s.t.toNat ≤ i.toNat ↔ ¬i.setWidth 13 < s.t := by
    rw [BitVec.lt_def, BitVec.toNat_setWidth_of_le (by decide), Nat.not_lt]
  simp only [remainingCause, hrange, ite_not, decide_eq_true_eq]

/-- With FLT = 0 a command checks its phase and then its remaining condition. -/
theorem Inv.exec_reports (h : Inv s) (hflt : s.flt = false) (i : Instr) :
    Reports s (firstCause i s) (exec i s) := by
  unfold firstCause
  cases i with
  | coreRst =>
    have hreset : exec .coreRst s = .next ((s.resetRegs trellisTables).answered 0) := execCoreRst_next.mpr rfl
    exact hreset ▸ .completes (Completes.coreRst.flt_eq_false hflt)
  | coreStat => exact reports_respond hflt
  | mapTri | fmrInit => exact reports_whenRunning hflt <| reports_respond hflt
  | encEnd =>
    show Reports s (if s.ene then none else some .lengthZero) _
    exact reports_whenRunning hflt <| reports_require <| reports_respond hflt
  | encPad b =>
    rw [phaseAllows_encPad, remainingCause_encPad]
    exact reports_whenRunning hflt <| reports_require <| reports_require <| reports_respond hflt
  | encBit b =>
    rw [h.phaseAllows_encBit]
    exact reports_whenRunning hflt <| reports_require <| reports_respond hflt
  | fmrStep y =>
    rw [phaseAllows_fmrStep, h.remainingCause_fmrStep]
    exact reports_whenRunning hflt <| reports_require <| reports_require <| reports_respond hflt
  | fmrRdm q =>
    rw [phaseAllows_fmrRdm]
    exact reports_whenRunning hflt <| reports_require <| reports_respondMetric hflt
  | tbStart =>
    rw [phaseAllows_tbStart, remainingCause_tbStart]
    exact reports_whenRunning hflt <| reports_require <| reports_require <| reports_respond hflt
  | tbStep =>
    rw [phaseAllows_tbStep]
    exact reports_whenRunning hflt <| reports_require <| reports_respond hflt
  | outRd i =>
    rw [phaseAllows_outRd, remainingCause_outRd]
    exact reports_whenRunning hflt <| reports_require <| reports_require <| reports_respond hflt

end

end Sys2Proof.Safety

/-! ## The obligations of 60_exceptions.md -/

namespace Sys2Proof.Proofs

open Sys2Proof.Machine Sys2Proof.Safety

/-- Settles O10: a word that matches no row does not decode, and an illegal word faults unless FLT is set already. -/
theorem illegalWordRaisesIllegalCommand : Obligations.IllegalWordRaisesIllegalCommand := by
  intro s w rest hport hillegal
  obtain ⟨e, hd⟩ := exists_decode_eq_error hillegal
  rw [step_of_decode_error hport hd]
  refine ⟨fun hflt => ?faulted, fun hflt => ?rejected⟩
  case faulted => exact illegalWord_next.mpr <| .inr ⟨hflt, (faulted_eq { s with cmdIn := rest } .illegalCommand).symm⟩
  case rejected => exact illegalWord_next.mpr <| .inl ⟨hflt, (rejected_eq { s with cmdIn := rest }).symm⟩

/-- Settles O11: an illegal word and every command but CORE.RST and CORE.STAT begin with the check of FLT. -/
theorem faultedCoreRejectsEveryOtherWord : Obligations.FaultedCoreRejectsEveryOtherWord := by
  intro s w rest hport hflt
  refine ⟨fun hrst hstat => ?rejected, fun hstat => ?status⟩
  case rejected => exact rejected_eq { s with cmdIn := rest } ▸ step_of_faulted hport hflt hrst hstat
  case status =>
    subst hstat
    obtain ⟨herr, hbit, hcause⟩ := packResponse_status s
    exact ⟨_, step_coreStat hport, herr, hbit.trans hflt, hcause⟩

/-- Settles O12: no command that completes sets FLT, so the command took a fault. -/
theorem faultEntryChangesOnlyTheLatch : Obligations.FaultEntryChangesOnlyTheLatch := by
  intro i s t hflt hexec hfault
  obtain ⟨c, rfl⟩ := exec_faults hflt hexec hfault
  exact ⟨c.code.toNat, c.one_le_code, c.code_le, by rw [faulted_eq, BitVec.ofNat_toNat, BitVec.setWidth_eq]⟩

/-- Settles O13: the checks of a command, in the order it makes them, are those of `firstCause`. -/
theorem commandReportsTheFirstCause : Obligations.CommandReportsTheFirstCause := by
  intro i s hinv hflt
  have hreports := hinv.exec_reports hflt i
  refine ⟨fun c hc => ?fault, fun hnone => ?completes⟩
  case fault =>
    rw [hc] at hreports
    exact reports_some.mp hreports ▸ congrArg _ (faulted_eq s c)
  case completes =>
    rw [hnone] at hreports
    exact reports_none.mp hreports

/-- Settles O14: a step from FLT = 1 is a reset, which clears FLT and the phases, or leaves the latch alone. -/
theorem onlyResetClearsTheFault : Obligations.OnlyResetClearsTheFault := by
  intro s t hflt hstep
  obtain ⟨rest, hport, rfl⟩ | ⟨hsame, hcause⟩ := step_of_faulted_cases hflt hstep
  · exact ⟨fun _ => ⟨⟨rest, hport⟩, rfl, rfl, rfl⟩, fun hfault => by simp [trellisTables_ok] at hfault⟩
  · exact ⟨fun hclear => by simp [hsame, hflt] at hclear, fun _ => hcause⟩

end Sys2Proof.Proofs
